-- ==== Sys2Proof/Word.lean ====
section
/-!
DEFINITION. The widths of the hardware (00_scope.md R6, R7): 32-bit words, 8-bit bytes, and the time values of
00_scope.md R14 (`now` and durations are natural numbers without bound; a due-time may also be `INF`).
-/

namespace Sys2Proof

/-- A stimulus, payload, response or event word (30_encoding.md R100, R110, R112), or a register of the view of
10_state.md R36. -/
abbrev Word := BitVec 32

/-- One byte of data (00_scope.md R7). -/
abbrev Byte := BitVec 8

/-- A due-time of a scheduler slot: a natural number of ticks, or `INF` (00_scope.md R14, 10_state.md R45). -/
inductive Due where
  | ticks (t : Nat)
  | inf
  deriving DecidableEq, Repr, Inhabited

end Sys2Proof
end

