-- ==== Sys2Proof/Config.lean ====
section
/-!
DEFINITION. What is fixed for one machine: the parameters of 00_scope.md R6, and the one value the spec leaves
free after an operation (60_exceptions.md R227, 93_implementation_defined.md U12).
-/

namespace Sys2Proof

/-- `WCAP[ch]` and `RCAP[ch]`: how many bytes the write and the read queue of a channel can hold (00_scope.md R6). -/
structure QueueCaps where
  wcap : Nat
  rcap : Nat
  deriving DecidableEq, Repr

/-- The parameters of 00_scope.md R6: one entry per channel, so that `NCH` is the length of the list. -/
structure Params where
  caps : List QueueCaps
  deriving DecidableEq, Repr

/-- `NCH` (00_scope.md R6). -/
def Params.nch (p : Params) : Nat := p.caps.length

/-- The constraints of 00_scope.md R6: `1 ≤ NCH ≤ 16` and every capacity at least 1. -/
def Params.wf (p : Params) : Bool :=
  decide (1 ≤ p.nch) && decide (p.nch ≤ 16) && p.caps.all fun c => decide (1 ≤ c.wcap) && decide (1 ≤ c.rcap)

/-- The parameters of `State.reset`: the values the spec's own vectors use (95_test_vectors.md, common conventions:
`NCH = 3`, `WCAP[ch] = RCAP[ch] = 8`). DESIGN CHOICE (log 2): the spec gives no value. A machine with any other
parameters is a `State` with another list of channels, and the statements are about every `State`. -/
def Config.params : Params := ⟨[⟨8, 8⟩, ⟨8, 8⟩, ⟨8, 8⟩]⟩

/-- FREE VALUE (log 4): what a slot's due-time holds after its unregistration; "slot.due becomes unspecified"
(60_exceptions.md R227). `n` counts the draws. It has no body, so no proof can see a value of it. -/
opaque Config.freeDue (n : Nat) : Due

end Sys2Proof
end

