-- ==== Sys2Proof/Syntax.lean ====
section
/-!
DEFINITION. The stimuli of 30_encoding.md R104, one constructor of `Instr` per row of spec/opcode_table.json, with the
agent (00_scope.md R17) and the context (20_memory.md R72) each belongs to, the decoder's verdicts (30_encoding.md R116)
and the pseudo-instructions (30_encoding.md R121).
-/

namespace Sys2Proof

/-- The fifteen operations (30_encoding.md R104). -/
inductive Op where
  | init | attach | setcb | enqueue | arm | cancel | drain | taskw | taskr
  | irq | hwload | hwdone | hwrx | tick | costep
  deriving DecidableEq, Repr

/-- A stimulus: one step of one agent (30_encoding.md R100, R104). `ch` is the CH field, `p` the P bit (R102), the rest
are the operands of ARG (R105 to R107) and, for ENQUEUE, the payload bytes. -/
inductive Instr where
  | init (ch : Nat) (lp : Bool)
  | attach (ch : Nat) (w r : Bool)
  | setcb (ch : Nat) (en : Bool) (ctx : BitVec 16)
  | enqueue (ch : Nat) (p : Bool) (bs : List Byte)
  | arm (ch : Nat) (p : Bool) (timeout : Nat)
  | cancel (ch : Nat) (p : Bool)
  | drain (ch : Nat) (max : Nat)
  | taskw (ch : Nat) (p : Bool)
  | taskr (ch : Nat) (p : Bool)
  | irq (ch : Nat)
  | hwload (ch : Nat)
  | hwdone (ch : Nat)
  | hwrx (ch : Nat) (b : Byte)
  | tick (dt : Nat)
  | costep
  deriving DecidableEq, Repr

/-- Which operation a stimulus is (the OP field, 30_encoding.md R101). -/
def Instr.op : Instr → Op
  | .init _ _ => .init
  | .attach _ _ _ => .attach
  | .setcb _ _ _ => .setcb
  | .enqueue _ _ _ => .enqueue
  | .arm _ _ _ => .arm
  | .cancel _ _ => .cancel
  | .drain _ _ => .drain
  | .taskw _ _ => .taskw
  | .taskr _ _ => .taskr
  | .irq _ => .irq
  | .hwload _ => .hwload
  | .hwdone _ => .hwdone
  | .hwrx _ _ => .hwrx
  | .tick _ => .tick
  | .costep => .costep

/-- The channel a stimulus names; the global ones (format G, 30_encoding.md R101) name none. -/
def Instr.channel? : Instr → Option Nat
  | .init ch _ => some ch
  | .attach ch _ _ => some ch
  | .setcb ch _ _ => some ch
  | .enqueue ch _ _ => some ch
  | .arm ch _ _ => some ch
  | .cancel ch _ => some ch
  | .drain ch _ => some ch
  | .taskw ch _ => some ch
  | .taskr ch _ => some ch
  | .irq ch => some ch
  | .hwload ch => some ch
  | .hwdone ch => some ch
  | .hwrx ch _ => some ch
  | .tick _ => none
  | .costep => none

/-- The preemptible form of an instruction: P = 1 where it has a P bit (30_encoding.md R102). -/
def Instr.preemptible : Instr → Instr
  | .init ch lp => .init ch lp
  | .attach ch w r => .attach ch w r
  | .setcb ch en ctx => .setcb ch en ctx
  | .enqueue ch _ bs => .enqueue ch true bs
  | .arm ch _ timeout => .arm ch true timeout
  | .cancel ch _ => .cancel ch true
  | .drain ch max => .drain ch max
  | .taskw ch _ => .taskw ch true
  | .taskr ch _ => .taskr ch true
  | .irq ch => .irq ch
  | .hwload ch => .hwload ch
  | .hwdone ch => .hwdone ch
  | .hwrx ch b => .hwrx ch b
  | .tick dt => .tick dt
  | .costep => .costep

/-- The five agents (00_scope.md R17). COSTEP continues an operation of the Host or of the Scheduler (30_encoding.md
R104), so it is listed under both by `Op.agents`. -/
inductive Agent where
  | host | scheduler | multiplexer | transceiver | clock
  deriving DecidableEq, Repr

/-- The agent column of 30_encoding.md R104. -/
def Op.agents : Op → List Agent
  | .init | .attach | .setcb | .enqueue | .arm | .cancel | .drain => [.host]
  | .taskw | .taskr => [.scheduler]
  | .irq => [.multiplexer]
  | .hwload | .hwdone | .hwrx => [.transceiver]
  | .tick => [.clock]
  | .costep => [.host, .scheduler]

/-- The execution contexts (20_memory.md R72, 60_exceptions.md R220); the transceiver's and the clock's steps belong to
neither. -/
inductive Context where
  | cooperative | interrupt | environment
  deriving DecidableEq, Repr

/-- The context an operation runs in: a property of the operation, not a state (60_exceptions.md R220, R221). -/
def Op.context : Op → Context
  | .init | .attach | .setcb | .enqueue | .arm | .cancel | .drain | .taskw | .taskr | .costep => .cooperative
  | .irq => .interrupt
  | .hwload | .hwdone | .hwrx | .tick => .environment

/-- A new cooperative operation: a host operation or a task, the stimuli of NE1 (30_encoding.md R118). -/
def Op.startsCooperative : Op → Bool
  | .init | .attach | .setcb | .enqueue | .arm | .cancel | .drain | .taskw | .taskr => true
  | .irq | .hwload | .hwdone | .hwrx | .tick | .costep => false

/-- Why the decoder gives no stimulus for the words at the head of the stream. All but `noStimulus` are the cases (a) to
(f) of 30_encoding.md R116, in its order. -/
inductive Illegal where
  /-- The stream is empty: the run has ended. -/
  | noStimulus
  /-- (a) OP = 0x0 (30_encoding.md R114). -/
  | reservedOp
  /-- (b) a reserved bit is 1 (30_encoding.md R115). -/
  | reservedBits
  /-- (c) `CH ≥ NCH`. -/
  | noChannel
  /-- (d) SETCB has `en = 0` and `ctx ≠ 0`. -/
  | setcbContext
  /-- (e) the last payload word of an ENQUEUE has a non-zero unused byte. -/
  | padding
  /-- (f) the stream ends before all payload words of an ENQUEUE. -/
  | truncated
  deriving DecidableEq, Repr

/-- The pseudo-instructions (30_encoding.md R121). -/
inductive Pseudo where
  | bringup (ch : Nat) (lp : Bool) (ctx : BitVec 16)
  | txbyte (ch : Nat)
  | rxbyte (ch : Nat) (b : Byte)
  | rearm (ch : Nat) (timeout : Nat)
  deriving DecidableEq, Repr

/-- The expansion of a pseudo-instruction, in order (30_encoding.md R121). -/
def Pseudo.expand : Pseudo → List Instr
  | .bringup ch lp ctx => [.init ch lp, .attach ch true true, .setcb ch true ctx]
  | .txbyte ch => [.irq ch, .hwload ch, .hwdone ch]
  | .rxbyte ch b => [.hwrx ch b, .irq ch]
  | .rearm ch timeout => [.cancel ch false, .arm ch false timeout]

end Sys2Proof
end

