-- ==== Sys2Proof/WellFormed.lean ====
section
/-!
DEFINITION. When an instruction is one that some word of the stream spells: the channel exists and every operand fits
its field (30_encoding.md R103, R105 to R107, R116).
-/

namespace Sys2Proof

/-- The channel number is one of the machine's (30_encoding.md R101, R116 (c)). -/
def channelOk (nch ch : Nat) : Bool := decide (ch < nch)

/-- A timeout or a tick count fits 23 bits (30_encoding.md R103: 0 to 8388607). -/
def ticksOk (t : Nat) : Bool := decide (t ≤ 8388607)

/-- A drain limit fits 16 bits (30_encoding.md R103). -/
def drainOk (max : Nat) : Bool := decide (max ≤ 65535)

/-- An ENQUEUE offers at most 255 bytes (30_encoding.md R105). -/
def payloadOk (bs : List Byte) : Bool := decide (bs.length ≤ 255)

/-- SETCB with `en = 0` has `ctx = 0` (30_encoding.md R107, R116 (d)). -/
def callbackOk (en : Bool) (ctx : BitVec 16) : Bool := en || decide (ctx = 0)

/-- Well-formed in a machine of `nch` channels. -/
def Instr.wf (nch : Nat) : Instr → Bool
  | .init ch _ => channelOk nch ch
  | .attach ch _ _ => channelOk nch ch
  | .setcb ch en ctx => channelOk nch ch && callbackOk en ctx
  | .enqueue ch _ bs => channelOk nch ch && payloadOk bs
  | .arm ch _ timeout => channelOk nch ch && ticksOk timeout
  | .cancel ch _ => channelOk nch ch
  | .drain ch max => channelOk nch ch && drainOk max
  | .taskw ch _ => channelOk nch ch
  | .taskr ch _ => channelOk nch ch
  | .irq ch => channelOk nch ch
  | .hwload ch => channelOk nch ch
  | .hwdone ch => channelOk nch ch
  | .hwrx ch _ => channelOk nch ch
  | .tick dt => ticksOk dt
  | .costep => true

end Sys2Proof
end

