-- ==== Sys2Proof/Decode.lean ====
section
/-!
DEFINITION. The decoder of the stimulus stream (30_encoding.md R100 to R119), total on any list of words, and after it
the encoder, both written from the opcode map of 30_encoding.md R104 and the operand fields of R105 to R107.
-/

namespace Sys2Proof

/-! ### The fields of a stimulus word (30_encoding.md R101) -/

/-- OP, bits 31:28. -/
def opField (w : Word) : BitVec 4 := w.extractLsb' 28 4

/-- CH, bits 27:24, as it stands (30_encoding.md R103). -/
def chField (w : Word) : Nat := (w.extractLsb' 24 4).toNat

/-- P, bit 23. -/
def pField (w : Word) : Bool := w.getLsbD 23

/-- ARG, bits 22:0. -/
def argField (w : Word) : BitVec 23 := w.extractLsb' 0 23

/-! ### The opcode map (30_encoding.md R104) -/

/-- The operation number (the OP column). -/
def Op.code : Op → BitVec 4
  | .init => 0x1
  | .attach => 0x2
  | .setcb => 0x3
  | .enqueue => 0x4
  | .arm => 0x5
  | .cancel => 0x6
  | .drain => 0x7
  | .taskw => 0x8
  | .taskr => 0x9
  | .irq => 0xA
  | .hwload => 0xB
  | .hwdone => 0xC
  | .hwrx => 0xD
  | .tick => 0xE
  | .costep => 0xF

/-- A row of the opcode map: a word spells the operation iff its bits under `mask` are those of `pattern` (the table's
column `match`). -/
structure OpRow where
  op : Op
  pattern : Word
  mask : Word
  deriving DecidableEq, Repr

/-- The match and mask columns, row by row. -/
def opTable : List OpRow := [
  ⟨.init,    0x10000000, 0xF0FFFFFE⟩,
  ⟨.attach,  0x20000000, 0xF0FFFFFC⟩,
  ⟨.setcb,   0x30000000, 0xF0FE0000⟩,
  ⟨.enqueue, 0x40000000, 0xF07FFF00⟩,
  ⟨.arm,     0x50000000, 0xF0000000⟩,
  ⟨.cancel,  0x60000000, 0xF07FFFFF⟩,
  ⟨.drain,   0x70000000, 0xF0FF0000⟩,
  ⟨.taskw,   0x80000000, 0xF07FFFFF⟩,
  ⟨.taskr,   0x90000000, 0xF07FFFFF⟩,
  ⟨.irq,     0xA0000000, 0xF0FFFFFF⟩,
  ⟨.hwload,  0xB0000000, 0xF0FFFFFF⟩,
  ⟨.hwdone,  0xC0000000, 0xF0FFFFFF⟩,
  ⟨.hwrx,    0xD0000000, 0xF0FFFF00⟩,
  ⟨.tick,    0xE0000000, 0xFF800000⟩,
  ⟨.costep,  0xF0000000, 0xFFFFFFFF⟩]

/-- Whether a word has the row's bits (30_encoding.md R104). -/
def OpRow.spells (r : OpRow) (w : Word) : Bool := w &&& r.mask == r.pattern

/-- The row with the word's OP; none for the reserved OP 0x0 (30_encoding.md R114, R117). -/
def rowOf (w : Word) : Option OpRow := opTable.find? fun r => r.op.code == opField w

/-! ### Payload (20_memory.md R61, 30_encoding.md R105) -/

/-- How many payload words hold `n` bytes: `ceil(n / 4)`. -/
def payloadWords (n : Nat) : Nat := (n + 3) / 4

/-- Four bytes in one word, the first in bits 7:0 (20_memory.md R61). -/
def packWord (b0 b1 b2 b3 : Byte) : Word := b3 ++ b2 ++ b1 ++ b0

/-- The payload words of a sequence of bytes, the unused high bytes of the last word zero (20_memory.md R61). -/
def packBytes : List Byte → List Word
  | [] => []
  | [b0] => [packWord b0 0 0 0]
  | [b0, b1] => [packWord b0 b1 0 0]
  | [b0, b1, b2] => [packWord b0 b1 b2 0]
  | b0 :: b1 :: b2 :: b3 :: rest => packWord b0 b1 b2 b3 :: packBytes rest

/-- The four bytes of a payload word, oldest first (20_memory.md R61). -/
def wordBytes (w : Word) : List Byte :=
  [w.extractLsb' 0 8, w.extractLsb' 8 8, w.extractLsb' 16 8, w.extractLsb' 24 8]

/-- The bytes of a list of payload words, oldest first. -/
def unpackBytes : List Word → List Byte
  | [] => []
  | w :: ws => wordBytes w ++ unpackBytes ws

/-- The length in words of the stimulus whose first word is `w` (30_encoding.md R117). -/
def stimulusLength (w : Word) : Nat :=
  if opField w = Op.enqueue.code then 1 + payloadWords (w.extractLsb' 0 8).toNat else 1

/-! ### Decoding (30_encoding.md R117) -/

/-- The payload of an ENQUEUE that offers `n` bytes: the next `ceil(n / 4)` words, checked for (f) and (e) of
30_encoding.md R116. Answers the bytes and the words after them. -/
def decodePayload (n : Nat) (rest : List Word) : Except Illegal (List Byte × List Word) :=
  if rest.length < payloadWords n then .error .truncated
  else
    let bytes := unpackBytes (rest.take (payloadWords n))
    if (bytes.drop n).all (fun b => b == 0) then .ok (bytes.take n, rest.drop (payloadWords n))
    else .error .padding

/-- The operands of the first word `w` of an operation (30_encoding.md R105 to R107), and what follows in the stream. -/
def decodeOperands (op : Op) (w : Word) (rest : List Word) : Except Illegal (Instr × List Word) :=
  match op with
  | .init => .ok (.init (chField w) (w.getLsbD 0), rest)
  | .attach => .ok (.attach (chField w) (w.getLsbD 0) (w.getLsbD 1), rest)
  | .setcb =>
    if callbackOk (w.getLsbD 16) (w.extractLsb' 0 16) then
      .ok (.setcb (chField w) (w.getLsbD 16) (w.extractLsb' 0 16), rest)
    else .error .setcbContext
  | .enqueue =>
    match decodePayload (w.extractLsb' 0 8).toNat rest with
    | .ok (bs, rest') => .ok (.enqueue (chField w) (pField w) bs, rest')
    | .error e => .error e
  | .arm => .ok (.arm (chField w) (pField w) (argField w).toNat, rest)
  | .cancel => .ok (.cancel (chField w) (pField w), rest)
  | .drain => .ok (.drain (chField w) (w.extractLsb' 0 16).toNat, rest)
  | .taskw => .ok (.taskw (chField w) (pField w), rest)
  | .taskr => .ok (.taskr (chField w) (pField w), rest)
  | .irq => .ok (.irq (chField w), rest)
  | .hwload => .ok (.hwload (chField w), rest)
  | .hwdone => .ok (.hwdone (chField w), rest)
  | .hwrx => .ok (.hwrx (chField w) (w.extractLsb' 0 8), rest)
  | .tick => .ok (.tick (argField w).toNat, rest)
  | .costep => .ok (.costep, rest)

/-- The stimulus at the head of the stream of a machine with `nch` channels, with the words after it, or the reason why
there is none (30_encoding.md R116, R117). When several reasons hold, the first in R117's order is given (log 14). -/
def decode (nch : Nat) : List Word → Except Illegal (Instr × List Word)
  | [] => .error .noStimulus
  | w :: rest =>
    match rowOf w with
    | none => .error .reservedOp
    | some r =>
      if !r.spells w then .error .reservedBits
      else if !channelOk nch (chField w) then .error .noChannel
      else decodeOperands r.op w rest

/-- The words of the stimulus of `nbits` bits `v`, bit 0 the least significant bit of the first word; what its length
(30_encoding.md R117) has beyond `nbits` is zero. -/
def tableWords (nbits v : Nat) : List Word :=
  (List.range (stimulusLength (BitVec.ofNat 32 (v % 2 ^ nbits)))).map fun k =>
    BitVec.ofNat 32 ((v % 2 ^ nbits) >>> (32 * k))

/-- What the decoder of the machine of `State.reset` reads from those words. -/
def decodeTableWord (nbits w : Nat) : Option Instr :=
  match decode Config.params.nch (tableWords nbits w) with
  | .ok (i, _) => some i
  | .error _ => none

/-! ### Encoding (30_encoding.md R101, R104 to R107) -/

/-- The word of the four fields of 30_encoding.md R101. -/
def stimulusWord (op : Op) (ch : Nat) (p : Bool) (arg : BitVec 23) : Word :=
  op.code ++ BitVec.ofNat 4 ch ++ BitVec.ofBool p ++ arg

/-- The words of a well-formed instruction. -/
def encode : Instr → List Word
  | .init ch lp => [stimulusWord .init ch false ((BitVec.ofBool lp).setWidth 23)]
  | .attach ch w r => [stimulusWord .attach ch false ((BitVec.ofBool r ++ BitVec.ofBool w).setWidth 23)]
  | .setcb ch en ctx => [stimulusWord .setcb ch false ((BitVec.ofBool en ++ ctx).setWidth 23)]
  | .enqueue ch p bs => stimulusWord .enqueue ch p (BitVec.ofNat 23 bs.length) :: packBytes bs
  | .arm ch p timeout => [stimulusWord .arm ch p (BitVec.ofNat 23 timeout)]
  | .cancel ch p => [stimulusWord .cancel ch p 0]
  | .drain ch max => [stimulusWord .drain ch false (BitVec.ofNat 23 max)]
  | .taskw ch p => [stimulusWord .taskw ch p 0]
  | .taskr ch p => [stimulusWord .taskr ch p 0]
  | .irq ch => [stimulusWord .irq ch false 0]
  | .hwload ch => [stimulusWord .hwload ch false 0]
  | .hwdone ch => [stimulusWord .hwdone ch false 0]
  | .hwrx ch b => [stimulusWord .hwrx ch false (b.setWidth 23)]
  | .tick dt => [stimulusWord .tick 0 false (BitVec.ofNat 23 dt)]
  | .costep => [stimulusWord .costep 0 false 0]

/-- The words of a script (30_encoding.md R100). -/
def encodeAll (is : List Instr) : List Word := is.flatMap encode

end Sys2Proof
end

