-- ==== Sys2Proof/Machine/State.lean ====
section
/-!
DEFINITION. All state of the machine, as plain data (10_state.md, R20 to R54), the reasons for which a step stops, and the
reset state. The two fields that are the model's own are `State.stream` (log 1) and `Shared.draws` (log 4).
-/

namespace Sys2Proof.Machine

/-! ### The channel control block and what goes with it -/

/-- `C[ch].write_state` (10_state.md R22). -/
inductive WriteState where
  | idle | draining
  deriving DecidableEq, Repr

/-- `C[ch].read_state` (10_state.md R23). -/
inductive ReadState where
  | idle | armed
  deriving DecidableEq, Repr

/-- The interrupt enable bits `IER[ch]` (10_state.md R34, R38). -/
structure Ier where
  txeie : Bool
  tcie : Bool
  rxneie : Bool
  deriving DecidableEq, Repr

/-- The status flags `ISR[ch]` (10_state.md R33, R39). -/
structure Isr where
  txe : Bool
  tc : Bool
  rxne : Bool
  deriving DecidableEq, Repr

/-- A byte queue: its bytes, oldest first, and its usable capacity (20_memory.md R63). -/
structure ByteQueue where
  data : List Byte
  cap : Nat
  deriving DecidableEq, Repr

/-- A scheduler slot (10_state.md R45). `due` has a meaning only while `registered`. -/
structure Slot where
  registered : Bool
  due : Due
  deriving DecidableEq, Repr

/-- Everything the machine holds once per channel (10_state.md, opening paragraph). -/
structure Channel where
  /-- 10_state.md R21. -/
  initialized : Bool
  /-- 10_state.md R22. -/
  writeState : WriteState
  /-- 10_state.md R23. -/
  readState : ReadState
  /-- 10_state.md R24. -/
  wqAttached : Bool
  /-- 10_state.md R25. -/
  rqAttached : Bool
  /-- 10_state.md R26. -/
  readTimeout : Nat
  /-- 10_state.md R28: a callback is registered. -/
  cbEn : Bool
  /-- 10_state.md R28: the opaque user context. -/
  cbCtx : BitVec 16
  /-- 10_state.md R29: the transceiver is the low-power variant. -/
  lp : Bool
  /-- `IER[ch]`, 10_state.md R34. -/
  ier : Ier
  /-- `ISR[ch]`, 10_state.md R33. -/
  isr : Isr
  /-- `TDR[ch]`, 10_state.md R40. -/
  tdr : Byte
  /-- `RDR[ch]`, 10_state.md R41. -/
  rdr : Byte
  /-- 10_state.md R49: a byte is being shifted out. -/
  tsrBusy : Bool
  /-- 10_state.md R49: that byte. -/
  tsr : Byte
  /-- `WQ[ch]`, 10_state.md R48. -/
  wq : ByteQueue
  /-- `RQ[ch]`, 10_state.md R48. -/
  rq : ByteQueue
  /-- `WT[ch]`, the transmit completion task's slot, 10_state.md R45. -/
  wt : Slot
  /-- `RT[ch]`, the read timeout/rearm task's slot, 10_state.md R45. -/
  rt : Slot
  /-- The bytes written to the transmit data register, in order (00_scope.md R18). -/
  txlog : List Byte
  /-- The bytes that finished shifting out, in order (00_scope.md R18). -/
  linelog : List Byte
  deriving DecidableEq, Repr

/-! ### The output records -/

/-- Status codes (60_exceptions.md R200). -/
inductive Status where
  | ok | notInitialized | notAttached | alreadyActive | notArmed | queueFull
  deriving DecidableEq, Repr

/-- One response of a host operation (30_encoding.md R110); `payload` is DRAIN's bytes (R111). -/
structure Response where
  op : Op
  ch : Nat
  st : Status
  val : Nat
  payload : List Byte
  deriving DecidableEq, Repr

/-- `event_kind` (30_encoding.md R113). -/
inductive EventKind where
  | writeDone | readData | readTimeout
  deriving DecidableEq, Repr

/-- One event (30_encoding.md R112); `ctx` is `C[ch].cb_ctx` at the moment of emission. -/
structure Event where
  ch : Nat
  kind : EventKind
  ctx : BitVec 16
  deriving DecidableEq, Repr

/-- The names the power-gate calls leave in `pglog` (60_exceptions.md R229). -/
inductive PgCall where
  | enHf | disHf | supDs | alwDs
  deriving DecidableEq, Repr

/-! ### What the channels share (60_exceptions.md R234) -/

/-- The time, the power-gate counters and the global output traces. -/
structure Shared where
  /-- 10_state.md R46. -/
  now : Nat
  /-- 10_state.md R47. -/
  hfCount : Nat
  /-- 10_state.md R47. -/
  dsCount : Nat
  /-- The response port (00_scope.md R18). -/
  resp : List Response
  /-- The event port (00_scope.md R18). -/
  events : List Event
  /-- The power-gate calls (00_scope.md R18). -/
  pglog : List PgCall
  /-- The model's own: how many unspecified due-times have been drawn (log 4). -/
  draws : Nat
  deriving DecidableEq, Repr

/-- The micro-step of a cooperative operation that runs next, with the locals it needs (10_state.md R50): the micro-steps
after `ph0` of ENQUEUE, ARM, CANCEL, TASKW and TASKR. `k` is the count ENQUEUE's `ph0` accepted and `n` the count it was
offered, which the response of `ph2` compares (DEDUCED, log 7). -/
inductive Pending where
  | enqueuePh1 (k n : Nat)
  | enqueuePh2 (k n : Nat)
  | armPh1
  | armPh2
  | cancelPh1
  | cancelPh2
  | taskwPh1
  | taskrPh1
  deriving DecidableEq, Repr

/-- The cooperative operation in flight (10_state.md R50): its channel, and its operation, phase and locals as one
`Pending`. -/
structure Coop where
  ch : Nat
  next : Pending
  deriving DecidableEq, Repr

/-- The reasons of a fault (60_exceptions.md R206). -/
inductive FaultReason where
  /-- Raised by `pg_disable_hf` and `pg_allow_ds` at 0, from TASKW `ph1` and CANCEL `ph2`. -/
  | pgUnderflow
  /-- Raised by `sched_register` on a registered slot and by the other scheduler primitives on an unregistered one, from
  ENQUEUE `ph1`, ARM `ph0`, CANCEL `ph2`, TASKW `ph1`, TASKR `ph0` and IRQ sub-steps 2 and 3. -/
  | schedBadSlot
  /-- Raised by INIT on an initialised channel. -/
  | reinit
  /-- Raised by ATTACH on a channel with a queue attached. -/
  | reattach
  deriving DecidableEq, Repr

/-- The whole machine. -/
structure State where
  /-- The channels `0 .. NCH-1`; `NCH` is the length (10_state.md R20, 00_scope.md R6). -/
  chans : List Channel
  /-- What the channels share. -/
  shared : Shared
  /-- The cooperative operation in flight (10_state.md R50). -/
  coop : Option Coop
  /-- The sticky fault field (10_state.md R52). -/
  fault : Option FaultReason
  /-- The model's own: the stimulus words not yet consumed (log 1; 30_encoding.md R100 calls the stream an input). -/
  stream : List Word
  deriving DecidableEq, Repr

/-- How a step can stop the machine: the outcome *fault* of 00_scope.md R10. -/
inductive Fault where
  /-- Raised by every operation of 60_exceptions.md R206 through `State.raiseFault`, for the reason given. `stopped` is the
  state the machine stops in (60_exceptions.md R207), its field `fault` set. Safe: the spec stops the machine here so that
  nothing is proved of such a run (log 5). -/
  | raised (reason : FaultReason) (stopped : State)
  deriving DecidableEq, Repr

/-- The conditions under which a legal stimulus has no step (30_encoding.md R118). -/
inductive NotEnabled where
  /-- A host operation or a task while a cooperative operation is in flight. -/
  | ne1
  /-- COSTEP with none in flight. -/
  | ne2
  /-- TASKW whose slot is not registered and due. -/
  | ne3
  /-- TASKR whose slot is not registered and due. -/
  | ne4
  /-- HWLOAD without a byte waiting in front of a free shift stage of an initialised channel. -/
  | ne5
  /-- HWDONE without a byte in the shift stage of an initialised channel. -/
  | ne6
  /-- HWRX on a channel that is not initialised. -/
  | ne7
  /-- Every stimulus of a faulted machine. -/
  | ne8
  deriving DecidableEq, Repr

/-- Why there is no step: the outcome *not enabled* of 00_scope.md R10, and the decoder's verdicts. In all of them the
state is unchanged and the stream is not a run. -/
inductive Refusal where
  /-- Raised by an arm of `exec` that has no meaning yet. No arm does. Safe. -/
  | notModelled (mnemonic : String)
  /-- Raised by `step` for words that spell no stimulus (30_encoding.md R116), and by a meaning given a channel the
  machine does not have (R116 (c), log 12). Safe: the spec gives them no step. -/
  | illegal (why : Illegal)
  /-- Raised by every meaning that 30_encoding.md R118 lists, under the condition named. Safe: the spec gives no step. -/
  | notEnabled (why : NotEnabled)
  deriving DecidableEq, Repr

/-- What a step answers. -/
abbrev Result := Host.Outcome State Fault Refusal

/-! ### Reset (10_state.md R54) -/

/-- A channel after reset. `readTimeout`, `cbCtx`, `lp`, `isr`, `tdr`, `rdr`, `tsr` and the due-times are unspecified in
10_state.md R54; their zeros are the model's (DESIGN CHOICE, log 3). -/
def Channel.reset (caps : QueueCaps) : Channel where
  initialized := false
  writeState := .idle
  readState := .idle
  wqAttached := false
  rqAttached := false
  readTimeout := 0
  cbEn := false
  cbCtx := 0
  lp := false
  ier := ⟨false, false, false⟩
  isr := ⟨false, false, false⟩
  tdr := 0
  rdr := 0
  tsrBusy := false
  tsr := 0
  wq := ⟨[], caps.wcap⟩
  rq := ⟨[], caps.rcap⟩
  wt := ⟨false, .ticks 0⟩
  rt := ⟨false, .ticks 0⟩
  txlog := []
  linelog := []

/-- The shared state after reset. -/
def Shared.reset : Shared where
  now := 0
  hfCount := 0
  dsCount := 0
  resp := []
  events := []
  pglog := []
  draws := 0

/-- The machine of parameters `p` after reset. -/
def State.resetWith (p : Params) : State where
  chans := p.caps.map Channel.reset
  shared := Shared.reset
  coop := none
  fault := none
  stream := []

/-- The machine of the vectors' parameters after reset (log 2). -/
def State.reset : State := State.resetWith Config.params

/-- `NCH` (00_scope.md R6). -/
def State.nch (s : State) : Nat := s.chans.length

end Sys2Proof.Machine
end

