-- ==== Sys2Proof/Machine/Flags.lean ====
section
/-!
DEFINITION. The status flags and the interrupt enable bits: every update the spec makes of them (10_state.md R33, R34;
20_memory.md R69, R70, R79; 44_environment.md R180 to R183) and the request line computed from them (10_state.md R35).
-/

namespace Sys2Proof.Machine

/-! ### Requests (10_state.md R35, 60_exceptions.md R208) -/

/-- Transmit-empty is both enabled and pending. -/
def Channel.txeRequest (c : Channel) : Bool := c.ier.txeie && c.isr.txe

/-- Transmission-complete is both enabled and pending. -/
def Channel.tcRequest (c : Channel) : Bool := c.ier.tcie && c.isr.tc

/-- Receive-not-empty is both enabled and pending. -/
def Channel.rxneRequest (c : Channel) : Bool := c.ier.rxneie && c.isr.rxne

/-- `irq_line[ch]` (10_state.md R35). -/
def Channel.irqLine (c : Channel) : Bool := c.txeRequest || c.tcRequest || c.rxneRequest

/-! ### Enable bits: one bit at a time (20_memory.md R79) -/

/-- `IER[ch].TXEIE <- b`. -/
def Channel.setTxeie (c : Channel) (b : Bool) : Channel := { c with ier := { c.ier with txeie := b } }

/-- `IER[ch].TCIE <- b`. -/
def Channel.setTcie (c : Channel) (b : Bool) : Channel := { c with ier := { c.ier with tcie := b } }

/-- `IER[ch].RXNEIE <- b`. -/
def Channel.setRxneie (c : Channel) (b : Bool) : Channel := { c with ier := { c.ier with rxneie := b } }

/-! ### The data registers with their side effects -/

/-- `TDR[ch] <- b` (20_memory.md R69): TXE and TC are cleared and the byte is logged. -/
def Channel.writeTdr (c : Channel) (b : Byte) : Channel :=
  { c with tdr := b, isr := { c.isr with txe := false, tc := false }, txlog := c.txlog ++ [b] }

/-- The read of `RDR[ch]` (20_memory.md R70): the byte, and RXNE cleared. -/
def Channel.readRdr (c : Channel) : Byte × Channel :=
  (c.rdr, { c with isr := { c.isr with rxne := false } })

/-! ### The transceiver's steps (44_environment.md R181 to R183) -/

/-- HWLOAD: the byte in TDR moves to the shift stage and TXE rises; TC is not changed. -/
def Channel.loadShift (c : Channel) : Channel :=
  { c with tsr := c.tdr, tsrBusy := true, isr := { c.isr with txe := true } }

/-- HWDONE: the byte in the shift stage has left; TC rises when no byte waits in TDR. -/
def Channel.finishShift (c : Channel) : Channel :=
  { c with
    linelog := c.linelog ++ [c.tsr]
    tsrBusy := false
    isr := { c.isr with tc := c.isr.tc || c.isr.txe } }

/-- HWRX: a byte arrives; while RXNE is 1 it is lost to overrun and RDR keeps the old byte. -/
def Channel.receive (c : Channel) (b : Byte) : Channel :=
  if c.isr.rxne then c else { c with rdr := b, isr := { c.isr with rxne := true } }

/-- INIT's part: all enables cleared, the flags of an idle transceiver (40_lifecycle.md R130). -/
def Channel.idleTransceiver (c : Channel) : Channel :=
  { c with ier := ⟨false, false, false⟩, isr := ⟨true, true, false⟩, tsrBusy := false }

end Sys2Proof.Machine
end

