-- ==== Sys2Proof/Machine/Operands.lean ====
section
/-!
DEFINITION. The words of the output ports: the response word with its payload (30_encoding.md R110, R111) and the event
word (30_encoding.md R112, R113). The operands of a stimulus are assembled in Sys2Proof/Decode.lean (30_encoding.md R103).
-/

namespace Sys2Proof.Machine

/-- The ST field (60_exceptions.md R200). -/
def Status.code : Status → BitVec 4
  | .ok => 0
  | .notInitialized => 1
  | .notAttached => 2
  | .alreadyActive => 3
  | .notArmed => 4
  | .queueFull => 5

/-- The response word: OP, CH, ST, four zero bits, VAL (30_encoding.md R110). -/
def Response.word (r : Response) : Word :=
  r.op.code ++ BitVec.ofNat 4 r.ch ++ r.st.code ++ (0 : BitVec 4) ++ BitVec.ofNat 16 r.val

/-- The words of a response: its word, then the packed payload (30_encoding.md R111). -/
def Response.words (r : Response) : List Word := r.word :: packBytes r.payload

/-- The KIND field (30_encoding.md R113). -/
def EventKind.code : EventKind → BitVec 2
  | .writeDone => 0
  | .readData => 1
  | .readTimeout => 2

/-- The event word: four zero bits, CH, six zero bits, KIND, CTX (30_encoding.md R112). -/
def Event.word (e : Event) : Word :=
  (0 : BitVec 4) ++ BitVec.ofNat 4 e.ch ++ (0 : BitVec 6) ++ e.kind.code ++ e.ctx

/-- The response port as words, in order. -/
def Shared.respWords (g : Shared) : List Word := g.resp.flatMap Response.words

/-- The event port as words, in order. -/
def Shared.eventWords (g : Shared) : List Word := g.events.map Event.word

end Sys2Proof.Machine
end

