-- ==== Sys2Proof/Machine/Ops.lean ====
section
/-!
DEFINITION. The named operations every meaning is written with: the byte queues (20_memory.md R63 to R68), the scheduler
slots (60_exceptions.md R224 to R228), the power gate (60_exceptions.md R230 to R233), the output ports (30_encoding.md
R110, R112), what one channel's step may touch (`Focus`), raising a fault (60_exceptions.md R206, R207), and the enabling
conditions shared by several stimuli (30_encoding.md R118).
-/

namespace Sys2Proof

/-- `due <= now`; false for `INF` (00_scope.md R14). -/
def Due.reached (now : Nat) : Due → Bool
  | .ticks t => decide (t ≤ now)
  | .inf => false

end Sys2Proof

namespace Sys2Proof.Machine

/-! ### The byte queues -/

/-- The invariant of a queue (20_memory.md R63). -/
def ByteQueue.wf (q : ByteQueue) : Bool := decide (q.data.length ≤ q.cap)

/-- `Q.push(bs) -> k` (20_memory.md R64): the count accepted, and the queue after. -/
def ByteQueue.push (q : ByteQueue) (bs : List Byte) : Nat × ByteQueue :=
  let k := min bs.length (q.cap - q.data.length)
  (k, { q with data := q.data ++ bs.take k })

/-- `Q.pop(m) -> bs` (20_memory.md R65). -/
def ByteQueue.pop (q : ByteQueue) (m : Nat) : List Byte × ByteQueue :=
  let j := min m q.data.length
  (q.data.take j, { q with data := q.data.drop j })

/-- `Q.push_one(b) -> ok` (20_memory.md R66). -/
def ByteQueue.pushOne (q : ByteQueue) (b : Byte) : Bool × ByteQueue :=
  if q.data.length < q.cap then (true, { q with data := q.data ++ [b] }) else (false, q)

/-- `Q.pop_one() -> none or some b` (20_memory.md R67). -/
def ByteQueue.popOne (q : ByteQueue) : Option Byte × ByteQueue :=
  match q.data with
  | [] => (none, q)
  | b :: rest => (some b, { q with data := rest })

/-- `Q.is_empty()` (20_memory.md R68). -/
def ByteQueue.isEmpty (q : ByteQueue) : Bool := decide (q.data.length = 0)

/-- The machine's memory is its byte queues (10_state.md R48): each within its capacity (log 11). -/
def Memory.wf (s : State) : Bool := s.chans.all fun c => c.wq.wf && c.rq.wf

/-! ### The scheduler primitives -/

/-- The task of the slot may start: registered and due (60_exceptions.md R223). -/
def Slot.ready (sl : Slot) (now : Nat) : Bool := sl.registered && sl.due.reached now

/-- `sched_register(slot, due)` (60_exceptions.md R224). -/
def Slot.register (sl : Slot) (due : Due) : Except FaultReason Slot :=
  if sl.registered then .error .schedBadSlot else .ok ⟨true, due⟩

/-- `sched_reschedule(slot, due)` (60_exceptions.md R225). -/
def Slot.reschedule (sl : Slot) (due : Due) : Except FaultReason Slot :=
  if sl.registered then .ok { sl with due := due } else .error .schedBadSlot

/-- `sched_reschedule_relative_now(slot, d)` at time `now` (60_exceptions.md R226). -/
def Slot.rescheduleRelativeNow (sl : Slot) (d now : Nat) : Except FaultReason Slot :=
  if sl.registered then .ok { sl with due := .ticks (now + d) } else .error .schedBadSlot

/-- `sched_unregister(slot)` (60_exceptions.md R227); `free` is the unspecified due-time it leaves. -/
def Slot.unregister (sl : Slot) (free : Due) : Except FaultReason Slot :=
  if sl.registered then .ok ⟨false, free⟩ else .error .schedBadSlot

/-- `sched_run_now(slot)` at time `now` (60_exceptions.md R228). -/
def Slot.runNow (sl : Slot) (now : Nat) : Except FaultReason Slot :=
  if sl.registered then .ok { sl with due := .ticks now } else .error .schedBadSlot

/-! ### The power gate -/

/-- `pg_enable_hf()` (60_exceptions.md R230). -/
def Shared.enableHf (g : Shared) : Shared := { g with hfCount := g.hfCount + 1, pglog := g.pglog ++ [.enHf] }

/-- `pg_disable_hf()` (60_exceptions.md R231). -/
def Shared.disableHf (g : Shared) : Except FaultReason Shared :=
  if g.hfCount = 0 then .error .pgUnderflow
  else .ok { g with hfCount := g.hfCount - 1, pglog := g.pglog ++ [.disHf] }

/-- `pg_suppress_ds()` (60_exceptions.md R232). -/
def Shared.suppressDs (g : Shared) : Shared := { g with dsCount := g.dsCount + 1, pglog := g.pglog ++ [.supDs] }

/-- `pg_allow_ds()` (60_exceptions.md R233). -/
def Shared.allowDs (g : Shared) : Except FaultReason Shared :=
  if g.dsCount = 0 then .error .pgUnderflow
  else .ok { g with dsCount := g.dsCount - 1, pglog := g.pglog ++ [.alwDs] }

/-- What the write path acquires on entry to Draining: the low-power variant suppresses deep sleep instead of requesting
the clock (41_async_write.md R140). -/
def Shared.acquireWrite (g : Shared) (lp : Bool) : Shared := if lp then g.suppressDs else g.enableHf

/-- What the write path releases on completion (41_async_write.md R141). -/
def Shared.releaseWrite (g : Shared) (lp : Bool) : Except FaultReason Shared :=
  if lp then g.allowDs else g.disableHf

/-! ### The output ports -/

/-- `respond(op, ch, st, val, payload)` (30_encoding.md R110). -/
def Shared.respond (g : Shared) (op : Op) (ch : Nat) (st : Status) (val : Nat) (payload : List Byte) : Shared :=
  { g with resp := g.resp ++ [⟨op, ch, st, val, payload⟩] }

/-- `emit_event(ch, kind)` with the user context given (30_encoding.md R112). -/
def Shared.emitEvent (g : Shared) (ch : Nat) (kind : EventKind) (ctx : BitVec 16) : Shared :=
  { g with events := g.events ++ [⟨ch, kind, ctx⟩] }

/-! ### One channel's step -/

/-- All that a step on one channel may read and write: that channel and the shared state (10_state.md R20,
60_exceptions.md R234). -/
structure Focus where
  c : Channel
  g : Shared
  deriving DecidableEq, Repr

/-- What a micro-step answers: its channel and the shared state after it, with the micro-step that comes next (none when
the operation has ended), or the reason of its fault. -/
abbrev MicroResult := Except FaultReason (Focus × Option Pending)

/-- The operation ends here with a response (30_encoding.md R110). -/
def Focus.answer (f : Focus) (op : Op) (ch : Nat) (st : Status) (val : Nat) (payload : List Byte) : MicroResult :=
  .ok (⟨f.c, f.g.respond op ch st val payload⟩, none)

/-- `if C[ch].cb_en then emit_event(ch, kind)` (41_async_write.md R141, 42_async_read.md R153). -/
def Focus.report (f : Focus) (ch : Nat) (kind : EventKind) : Focus :=
  if f.c.cbEn then ⟨f.c, f.g.emitEvent ch kind f.c.cbCtx⟩ else f

/-- `sched_unregister(WT[ch])`, the due-time it leaves drawn afresh (60_exceptions.md R227, log 4). -/
def Focus.unregisterWt (f : Focus) : Except FaultReason Focus :=
  match f.c.wt.unregister (Config.freeDue f.g.draws) with
  | .ok sl => .ok ⟨{ f.c with wt := sl }, { f.g with draws := f.g.draws + 1 }⟩
  | .error r => .error r

/-- `sched_unregister(RT[ch])`, likewise. -/
def Focus.unregisterRt (f : Focus) : Except FaultReason Focus :=
  match f.c.rt.unregister (Config.freeDue f.g.draws) with
  | .ok sl => .ok ⟨{ f.c with rt := sl }, { f.g with draws := f.g.draws + 1 }⟩
  | .error r => .error r

/-- The state with channel `ch` and the shared state replaced; everything else stays. -/
def State.put (s : State) (ch : Nat) (f : Focus) : State :=
  { s with chans := s.chans.set ch f.c, shared := f.g }

/-! ### Faults (60_exceptions.md R206, R207) -/

/-- `raise Fault(reason)`: the one operation by which the machine stops. The state it stops in is that before the
faulting micro-step, with `fault` set. -/
def State.raiseFault (s : State) (r : FaultReason) : Result := .fault (.raised r { s with fault := some r })

/-! ### Committing a step -/

/-- A micro-step of a cooperative operation on channel `ch`: its effects, and in `coop` what comes next
(30_encoding.md R102, 44_environment.md R185). -/
def State.finishMicro (s : State) (ch : Nat) : MicroResult → Result
  | .ok (f, next) => .next { s.put ch f with coop := next.map fun p => ⟨ch, p⟩ }
  | .error r => s.raiseFault r

/-- An indivisible step that is no cooperative operation (IRQ, HWLOAD, HWDONE, HWRX): `coop` is not touched
(60_exceptions.md R216). -/
def State.finishStep (s : State) (ch : Nat) : Except FaultReason Focus → Result
  | .ok f => .next (s.put ch f)
  | .error r => s.raiseFault r

/-! ### When a stimulus has a step (30_encoding.md R118) -/

/-- NE8: nothing is enabled in a faulted machine. -/
def State.unfaulted (s : State) (k : Result) : Result :=
  match s.fault with
  | some _ => .refused (.notEnabled .ne8)
  | none => k

/-- The channel named, which a decoded stimulus always has (30_encoding.md R116 (c), log 12). -/
def State.onChannel (s : State) (ch : Nat) (k : Focus → Result) : Result :=
  match s.chans[ch]? with
  | some c => k ⟨c, s.shared⟩
  | none => .refused (.illegal .noChannel)

/-- A step on channel `ch` outside cooperative context. -/
def State.independent (s : State) (ch : Nat) (k : Focus → Result) : Result :=
  s.unfaulted (s.onChannel ch k)

/-- NE1 with NE8: a new cooperative operation on channel `ch` starts only when none is in flight. -/
def State.cooperative (s : State) (ch : Nat) (k : Focus → Result) : Result :=
  s.unfaulted
    (match s.coop with
    | some _ => .refused (.notEnabled .ne1)
    | none => s.onChannel ch k)

/-- One more condition, by its name. -/
def requires (cond : Bool) (why : NotEnabled) (k : Result) : Result :=
  if cond then k else .refused (.notEnabled why)

end Sys2Proof.Machine
end

