-- ==== Sys2Proof/Machine/ReadSteps.lean ====
section
/-!
DEFINITION. The micro-steps of the read path: ARM `ph0`, `ph1`, `ph2` (42_async_read.md R150), CANCEL `ph0`, `ph1`, `ph2`
(R151), DRAIN `ph0` (R152) and TASKR `ph0`, `ph1` (R153).
-/

namespace Sys2Proof.Machine

/-- ARM `ph0`: the three checks, in order (60_exceptions.md R215), the timeout stored, the task registered. -/
def armPh0 (ch timeout : Nat) (f : Focus) : MicroResult :=
  if !f.c.initialized then f.answer .arm ch .notInitialized 0 []
  else if !f.c.rqAttached then f.answer .arm ch .notAttached 0 []
  else
    match f.c.readState with
    | .armed => f.answer .arm ch .alreadyActive 0 []
    | .idle =>
      match f.c.rt.register (.ticks (f.g.now + timeout)) with
      | .ok sl => .ok (⟨{ f.c with readTimeout := timeout, rt := sl }, f.g⟩, some .armPh1)
      | .error r => .error r

/-- ARM `ph1`: `crit { RXNEIE <- 1 }`. -/
def armPh1 (f : Focus) : MicroResult := .ok (⟨f.c.setRxneie true, f.g⟩, some .armPh2)

/-- ARM `ph2`: the high-frequency clock, whatever `lp` is (90_conflicts.md C1), Armed, the response. -/
def armPh2 (ch : Nat) (f : Focus) : MicroResult :=
  (⟨{ f.c with readState := .armed }, f.g.enableHf⟩ : Focus).answer .arm ch .ok 1 []

/-- CANCEL `ph0`: the check, and Idle. -/
def cancelPh0 (ch : Nat) (f : Focus) : MicroResult :=
  match f.c.readState with
  | .idle => f.answer .cancel ch .notArmed 0 []
  | .armed => .ok (⟨{ f.c with readState := .idle }, f.g⟩, some .cancelPh1)

/-- CANCEL `ph1`: `crit { RXNEIE <- 0 }`. -/
def cancelPh1 (f : Focus) : MicroResult := .ok (⟨f.c.setRxneie false, f.g⟩, some .cancelPh2)

/-- CANCEL `ph2`: the clock released, the slot unregistered, and the response, whose VAL is 0 even on success
(90_conflicts.md C4). -/
def cancelPh2 (ch : Nat) (f : Focus) : MicroResult :=
  match f.g.disableHf with
  | .error r => .error r
  | .ok g =>
    match (⟨f.c, g⟩ : Focus).unregisterRt with
    | .error r => .error r
    | .ok f' => f'.answer .cancel ch .ok 0 []

/-- DRAIN `ph0`: the oldest bytes, up to `max`. -/
def drainPh0 (ch max : Nat) (f : Focus) : MicroResult :=
  match f.c.readState with
  | .idle => f.answer .drain ch .notArmed 0 []
  | .armed =>
    let (bs, q) := f.c.rq.pop max
    (⟨{ f.c with rq := q }, f.g⟩ : Focus).answer .drain ch .ok bs.length bs

/-- TASKR `ph0`: the slot re-armed for `now + read_timeout`. -/
def taskrPh0 (f : Focus) : MicroResult :=
  match f.c.rt.rescheduleRelativeNow f.c.readTimeout f.g.now with
  | .ok sl => .ok (⟨{ f.c with rt := sl }, f.g⟩, some .taskrPh1)
  | .error r => .error r

/-- TASKR `ph1`: the event, its kind decided by the queue's occupancy now; no event without a callback (D16). -/
def taskrPh1 (ch : Nat) (f : Focus) : MicroResult :=
  .ok (f.report ch (if f.c.rq.isEmpty then .readTimeout else .readData), none)

end Sys2Proof.Machine
end

