-- ==== Sys2Proof/Machine/WriteSteps.lean ====
section
/-!
DEFINITION. The micro-steps of the write path: ENQUEUE `ph0`, `ph1`, `ph2` (41_async_write.md R140) and TASKW `ph0`, `ph1`
(R141).
-/

namespace Sys2Proof.Machine

/-- ENQUEUE `ph0`: the two checks and the push. -/
def enqueuePh0 (ch : Nat) (bs : List Byte) (f : Focus) : MicroResult :=
  if !f.c.initialized then f.answer .enqueue ch .notInitialized 0 []
  else if !f.c.wqAttached then f.answer .enqueue ch .notAttached 0 []
  else
    let (k, q) := f.c.wq.push bs
    let f' : Focus := ⟨{ f.c with wq := q }, f.g⟩
    if k = 0 then f'.answer .enqueue ch (if bs.length = 0 then .ok else .queueFull) 0 []
    else .ok (f', some (.enqueuePh1 k bs.length))

/-- ENQUEUE `ph1`: from Idle, Draining with the task registered at `INF` and the power gate held; while Draining, only the
defensive re-arm to `INF`. -/
def enqueuePh1 (k n : Nat) (f : Focus) : MicroResult :=
  match f.c.writeState with
  | .idle =>
    match f.c.wt.register .inf with
    | .ok sl => .ok (⟨{ f.c with writeState := .draining, wt := sl }, f.g.acquireWrite f.c.lp⟩, some (.enqueuePh2 k n))
    | .error r => .error r
  | .draining =>
    match f.c.wt.reschedule .inf with
    | .ok sl => .ok (⟨{ f.c with wt := sl }, f.g⟩, some (.enqueuePh2 k n))
    | .error r => .error r

/-- ENQUEUE `ph2`: `crit { TXEIE <- 1 }` and the response. -/
def enqueuePh2 (ch k n : Nat) (f : Focus) : MicroResult :=
  (⟨f.c.setTxeie true, f.g⟩ : Focus).answer .enqueue ch (if k = n then .ok else .queueFull) k []

/-- TASKW `ph0`: the write sub-state is Idle. -/
def taskwPh0 (f : Focus) : MicroResult :=
  .ok (⟨{ f.c with writeState := .idle }, f.g⟩, some .taskwPh1)

/-- TASKW `ph1`: the slot unregistered, the power gate released, the event reported. -/
def taskwPh1 (ch : Nat) (f : Focus) : MicroResult :=
  match f.unregisterWt with
  | .error r => .error r
  | .ok f' =>
    match f'.g.releaseWrite f'.c.lp with
    | .error r => .error r
    | .ok g => .ok ((⟨f'.c, g⟩ : Focus).report ch .writeDone, none)

end Sys2Proof.Machine
end

