-- ==== Sys2Proof/Machine/Cooperation.lean ====
section
/-!
DEFINITION. How a cooperative operation runs: its micro-steps one by one (44_environment.md R185), or all of them in one
step when P = 0 (30_encoding.md R102).
-/

namespace Sys2Proof.Machine

/-- The name of the operation a micro-step belongs to (10_state.md R50, field `op`). -/
def Pending.op : Pending → Op
  | .enqueuePh1 _ _ | .enqueuePh2 _ _ => .enqueue
  | .armPh1 | .armPh2 => .arm
  | .cancelPh1 | .cancelPh2 => .cancel
  | .taskwPh1 => .taskw
  | .taskrPh1 => .taskr

/-- The number of the micro-step (10_state.md R50, field `phase`). -/
def Pending.phase : Pending → Nat
  | .enqueuePh1 _ _ | .armPh1 | .cancelPh1 | .taskwPh1 | .taskrPh1 => 1
  | .enqueuePh2 _ _ | .armPh2 | .cancelPh2 => 2

/-- Run one micro-step on channel `ch`. -/
def runMicro (p : Pending) (ch : Nat) (f : Focus) : MicroResult :=
  match p with
  | .enqueuePh1 k n => enqueuePh1 k n f
  | .enqueuePh2 k n => enqueuePh2 ch k n f
  | .armPh1 => armPh1 f
  | .armPh2 => armPh2 ch f
  | .cancelPh1 => cancelPh1 f
  | .cancelPh2 => cancelPh2 ch f
  | .taskwPh1 => taskwPh1 ch f
  | .taskrPh1 => taskrPh1 ch f

/-- The next micro-step of the operation in flight, NE2 when there is none (44_environment.md R185). -/
def State.runPending (s : State) : Result :=
  match s.coop with
  | none => .refused (.notEnabled .ne2)
  | some co => s.onChannel co.ch fun f => s.finishMicro co.ch (runMicro co.next co.ch f)

/-- At most `n` further micro-steps of the operation in flight, until it has ended. -/
def State.runToEnd : Nat → State → Result
  | 0, s => .next s
  | n + 1, s =>
    match s.coop with
    | none => .next s
    | some _ =>
      match s.runPending with
      | .next t => t.runToEnd n
      | .fault r => .fault r
      | .refused r => .refused r

/-- Start an operation of more than one micro-step with its `ph0`. With P = 1 only `ph0` runs; with P = 0 the others
(at most two) follow in the same step, exactly as COSTEPs would run them (30_encoding.md R102; 60_exceptions.md R207 for
a fault on the way, log 8). -/
def State.startOperation (s : State) (ch : Nat) (p : Bool) (ph0 : MicroResult) : Result :=
  match s.finishMicro ch ph0 with
  | .next t => if p then .next t else t.runToEnd 2
  | .fault r => .fault r
  | .refused r => .refused r

end Sys2Proof.Machine
end

