-- ==== Sys2Proof/Machine/Environment.lean ====
section
/-!
DEFINITION. The meanings of HWLOAD, HWDONE, HWRX, TICK and COSTEP (44_environment.md R181 to R185).
-/

namespace Sys2Proof.Machine

/-- HWLOAD: the byte in TDR moves into the shift stage (44_environment.md R181, NE5). -/
def execHwload (ch : Nat) (s : State) : Result :=
  s.independent ch fun f =>
    requires (f.c.initialized && !f.c.isr.txe && !f.c.tsrBusy) .ne5 (s.finishStep ch (.ok ⟨f.c.loadShift, f.g⟩))

/-- HWDONE: the byte in the shift stage has been sent (44_environment.md R182, NE6). -/
def execHwdone (ch : Nat) (s : State) : Result :=
  s.independent ch fun f =>
    requires (f.c.initialized && f.c.tsrBusy) .ne6 (s.finishStep ch (.ok ⟨f.c.finishShift, f.g⟩))

/-- HWRX: a byte arrives on the receive line (44_environment.md R183, NE7). -/
def execHwrx (ch : Nat) (b : Byte) (s : State) : Result :=
  s.independent ch fun f =>
    requires f.c.initialized .ne7 (s.finishStep ch (.ok ⟨f.c.receive b, f.g⟩))

/-- TICK: time advances (44_environment.md R184). -/
def execTick (dt : Nat) (s : State) : Result :=
  s.unfaulted (.next { s with shared := { s.shared with now := s.shared.now + dt } })

/-- COSTEP: the next micro-step of the operation in flight (44_environment.md R185, NE2). -/
def execCostep (s : State) : Result := s.unfaulted s.runPending

end Sys2Proof.Machine
end

