-- ==== Sys2Proof/Machine/Lifecycle.lean ====
section
/-!
DEFINITION. The meanings of INIT, ATTACH and SETCB (40_lifecycle.md R130 to R132), each one micro-step.
-/

namespace Sys2Proof.Machine

/-- INIT `ph0` (40_lifecycle.md R130). -/
def initPh0 (ch : Nat) (lp : Bool) (f : Focus) : MicroResult :=
  if f.c.initialized then .error .reinit
  else (⟨{ f.c.idleTransceiver with initialized := true, lp := lp }, f.g⟩ : Focus).answer .init ch .ok 1 []

/-- ATTACH `ph0` (40_lifecycle.md R131). -/
def attachPh0 (ch : Nat) (w r : Bool) (f : Focus) : MicroResult :=
  if !f.c.initialized then f.answer .attach ch .notInitialized 0 []
  else if f.c.wqAttached || f.c.rqAttached then .error .reattach
  else (⟨{ f.c with wqAttached := w, rqAttached := r }, f.g⟩ : Focus).answer .attach ch .ok 1 []

/-- SETCB `ph0` (40_lifecycle.md R132). -/
def setcbPh0 (ch : Nat) (en : Bool) (ctx : BitVec 16) (f : Focus) : MicroResult :=
  if !f.c.initialized then f.answer .setcb ch .notInitialized 0 []
  else (⟨{ f.c with cbEn := en, cbCtx := ctx }, f.g⟩ : Focus).answer .setcb ch .ok 1 []

/-- INIT: bring-up of a channel completes (40_lifecycle.md R130). -/
def execInit (ch : Nat) (lp : Bool) (s : State) : Result :=
  s.cooperative ch fun f => s.finishMicro ch (initPh0 ch lp f)

/-- ATTACH: the owner supplies the channel's byte queues (40_lifecycle.md R131). -/
def execAttach (ch : Nat) (w r : Bool) (s : State) : Result :=
  s.cooperative ch fun f => s.finishMicro ch (attachPh0 ch w r f)

/-- SETCB: register or clear the event callback (40_lifecycle.md R132). -/
def execSetcb (ch : Nat) (en : Bool) (ctx : BitVec 16) (s : State) : Result :=
  s.cooperative ch fun f => s.finishMicro ch (setcbPh0 ch en ctx f)

end Sys2Proof.Machine
end

