-- ==== Sys2Proof/Machine/Multiplexer.lean ====
section
/-!
DEFINITION. The interrupt multiplexer and the meaning of IRQ (43_interrupt_mux.md R170 to R174). Interrupt entry saves
nothing and return restores nothing (60_exceptions.md R216, R218), so the IRQ step is its three sub-steps.
-/

namespace Sys2Proof.Machine

/-- Sub-step 1, transmit-empty: a byte to TDR, or the switch to transmission-complete (43_interrupt_mux.md R171). -/
def irqTransmitEmpty (f : Focus) : Focus :=
  if f.c.txeRequest then
    match f.c.wq.popOne with
    | (some b, q) => ⟨({ f.c with wq := q } : Channel).writeTdr b, f.g⟩
    | (none, _) => ⟨(f.c.setTxeie false).setTcie true, f.g⟩
  else f

/-- Sub-step 2, transmission-complete: the completion task is asked to run now (43_interrupt_mux.md R172). -/
def irqTransmissionComplete (f : Focus) : Except FaultReason Focus :=
  if f.c.tcRequest then
    match f.c.wt.runNow f.g.now with
    | .ok sl => .ok ⟨{ f.c.setTcie false with wt := sl }, f.g⟩
    | .error r => .error r
  else .ok f

/-- Sub-step 3, receive-not-empty: one byte to the read queue, which drops it when full, and the read task is asked to
run now (43_interrupt_mux.md R173). -/
def irqReceiveNotEmpty (f : Focus) : Except FaultReason Focus :=
  if f.c.rxneRequest then
    let (b, c) := f.c.readRdr
    match c.rt.runNow f.g.now with
    | .ok sl => .ok ⟨{ c with rq := (c.rq.pushOne b).2, rt := sl }, f.g⟩
    | .error r => .error r
  else .ok f

/-- The three sub-steps in their fixed order, each guard evaluated on the state the earlier ones left
(43_interrupt_mux.md R170). -/
def multiplexer (f : Focus) : Except FaultReason Focus :=
  match irqTransmissionComplete (irqTransmitEmpty f) with
  | .ok f' => irqReceiveNotEmpty f'
  | .error r => .error r

/-- IRQ: one invocation of the multiplexer for one channel, also while a cooperative operation is in flight
(43_interrupt_mux.md R170). -/
def execIrq (ch : Nat) (s : State) : Result :=
  s.independent ch fun f => s.finishStep ch (multiplexer f)

end Sys2Proof.Machine
end

