-- ==== Sys2Proof/Machine/Read.lean ====
section
/-!
DEFINITION. The meanings of ARM, CANCEL, DRAIN and TASKR (42_async_read.md R150 to R153).
-/

namespace Sys2Proof.Machine

/-- ARM: start supervising the receive line (42_async_read.md R150). -/
def execArm (ch : Nat) (p : Bool) (timeout : Nat) (s : State) : Result :=
  s.cooperative ch fun f => s.startOperation ch p (armPh0 ch timeout f)

/-- CANCEL: stop supervising (42_async_read.md R151). -/
def execCancel (ch : Nat) (p : Bool) (s : State) : Result :=
  s.cooperative ch fun f => s.startOperation ch p (cancelPh0 ch f)

/-- DRAIN: copy received bytes out of the read queue (42_async_read.md R152). -/
def execDrain (ch max : Nat) (s : State) : Result :=
  s.cooperative ch fun f => s.finishMicro ch (drainPh0 ch max f)

/-- TASKR: the read timeout/rearm task, enabled when its slot is registered and due (42_async_read.md R153, NE4). -/
def execTaskr (ch : Nat) (p : Bool) (s : State) : Result :=
  s.cooperative ch fun f => requires (f.c.rt.ready f.g.now) .ne4 (s.startOperation ch p (taskrPh0 f))

end Sys2Proof.Machine
end

