-- ==== Sys2Proof/Machine/Write.lean ====
section
/-!
DEFINITION. The meanings of ENQUEUE and TASKW (41_async_write.md R140, R141).
-/

namespace Sys2Proof.Machine

/-- ENQUEUE: queue outbound bytes and start or continue draining (41_async_write.md R140). -/
def execEnqueue (ch : Nat) (p : Bool) (bs : List Byte) (s : State) : Result :=
  s.cooperative ch fun f => s.startOperation ch p (enqueuePh0 ch bs f)

/-- TASKW: the transmit completion task, enabled when its slot is registered and due (41_async_write.md R141, NE3). -/
def execTaskw (ch : Nat) (p : Bool) (s : State) : Result :=
  s.cooperative ch fun f => requires (f.c.wt.ready f.g.now) .ne3 (s.startOperation ch p (taskwPh0 f))

end Sys2Proof.Machine
end

