-- ==== Sys2Proof/Machine/Dispatch.lean ====
section
/-!
DEFINITION. The meaning of every stimulus: one arm per constructor of `Instr`, each one call of its own definition.
-/

namespace Sys2Proof.Machine

def exec (i : Instr) (s : State) : Host.Outcome State Fault Refusal :=
  match i with
  | .init ch lp => Sys2Proof.Machine.execInit ch lp s
  | .attach ch w r => Sys2Proof.Machine.execAttach ch w r s
  | .setcb ch en ctx => Sys2Proof.Machine.execSetcb ch en ctx s
  | .enqueue ch p bs => Sys2Proof.Machine.execEnqueue ch p bs s
  | .arm ch p timeout => Sys2Proof.Machine.execArm ch p timeout s
  | .cancel ch p => Sys2Proof.Machine.execCancel ch p s
  | .drain ch max => Sys2Proof.Machine.execDrain ch max s
  | .taskw ch p => Sys2Proof.Machine.execTaskw ch p s
  | .taskr ch p => Sys2Proof.Machine.execTaskr ch p s
  | .irq ch => Sys2Proof.Machine.execIrq ch s
  | .hwload ch => Sys2Proof.Machine.execHwload ch s
  | .hwdone ch => Sys2Proof.Machine.execHwdone ch s
  | .hwrx ch b => Sys2Proof.Machine.execHwrx ch b s
  | .tick dt => Sys2Proof.Machine.execTick dt s
  | .costep => Sys2Proof.Machine.execCostep s

end Sys2Proof.Machine
end

