-- ==== Sys2Proof/Machine/Fetch.lean ====
section
/-!
DEFINITION. Taking the next stimulus from the stream (30_encoding.md R100, R117), and placing one there.
-/

namespace Sys2Proof.Machine

/-- The stimulus at the head of the stream, and the state with its words consumed. -/
def State.fetch (s : State) : Except Illegal (Instr × State) :=
  match decode s.nch s.stream with
  | .ok (i, rest) => .ok (i, { s with stream := rest })
  | .error e => .error e

/-- The words of a stimulus put in front of the stream. -/
def State.pushWords (s : State) (ws : List Word) : State := { s with stream := ws ++ s.stream }

/-- A whole script put in front of the stream: how a program is loaded (log 1). -/
def State.load (s : State) (is : List Instr) : State := s.pushWords (encodeAll is)

end Sys2Proof.Machine
end

