-- ==== Sys2Proof/Machine/Step.lean ====
section
/-!
DEFINITION. One step of the machine: the stimulus at the head of the stream is consumed and run (00_scope.md R10,
30_encoding.md R100, R116). An illegal stimulus, or an empty stream, has no step.
-/

namespace Sys2Proof.Machine

/-- The step relation as a function: which agent steps next is read from the stream (log 1). -/
def step (s : State) : Host.Outcome State Fault Refusal :=
  match s.fetch with
  | .ok (i, t) => exec i t
  | .error e => .refused (.illegal e)

/-- `s` with the stimulus of `nbits` bits `w` in front of the stream, where `step` takes its next one. -/
def State.withFetchWord (s : State) (nbits w : Nat) : State := s.pushWords (tableWords nbits w)

end Sys2Proof.Machine
end

