-- ==== Sys2Proof/Machine/Registers.lean ====
section
/-!
DEFINITION. The register number space of 10_state.md R36 to R44: the state seen as 32-bit registers, for observation only
(no stimulus reads or writes a register by number).
-/

namespace Sys2Proof.Machine

/-- A bit as a register of its own. -/
def bitWord (b : Bool) : Word := (BitVec.ofBool b).setWidth 32

/-- `CSR[ch]` (10_state.md R37). LP shows 0 until INIT, whatever `lp` holds (R54). -/
def Channel.csr (c : Channel) : Word :=
  (BitVec.ofBool (c.initialized && c.lp) ++ BitVec.ofBool c.cbEn ++ BitVec.ofBool c.rqAttached ++ BitVec.ofBool c.wqAttached
    ++ BitVec.ofBool (c.readState == .armed) ++ BitVec.ofBool (c.writeState == .draining)
    ++ BitVec.ofBool c.initialized).setWidth 32

/-- `IER[ch]` (10_state.md R38). -/
def Ier.word (e : Ier) : Word :=
  (BitVec.ofBool e.rxneie ++ BitVec.ofBool e.tcie ++ BitVec.ofBool e.txeie).setWidth 32

/-- `ISR[ch]` (10_state.md R39). -/
def Isr.word (f : Isr) : Word :=
  (BitVec.ofBool f.rxne ++ BitVec.ofBool f.tc ++ BitVec.ofBool f.txe).setWidth 32

/-- A due-time in the register view: its low 32 bits, and `0xFFFFFFFF` for `INF` (10_state.md R43). -/
def dueWord : Due → Word
  | .ticks t => BitVec.ofNat 32 t
  | .inf => 0xFFFFFFFF

/-- The fault code of register FAULT (60_exceptions.md R206). -/
def faultCode : Option FaultReason → Word
  | none => 0
  | some .pgUnderflow => 1
  | some .schedBadSlot => 2
  | some .reinit => 3
  | some .reattach => 4

/-- Per-channel register `k` (10_state.md R37 to R44); `0xD` to `0xF` are reserved and read 0. -/
def Channel.register (c : Channel) : Nat → Word
  | 0x0 => c.csr
  | 0x1 => c.ier.word
  | 0x2 => c.isr.word
  | 0x3 => c.tdr.setWidth 32
  | 0x4 => c.rdr.setWidth 32
  | 0x5 => BitVec.ofNat 32 (c.readTimeout % 2 ^ 23)
  | 0x6 => bitWord c.wt.registered
  | 0x7 => dueWord c.wt.due
  | 0x8 => bitWord c.rt.registered
  | 0x9 => dueWord c.rt.due
  | 0xA => BitVec.ofNat 32 c.wq.data.length
  | 0xB => BitVec.ofNat 32 c.rq.data.length
  | 0xC => c.cbCtx.setWidth 32
  | _ => 0

/-- Global register `0xF0 + k` (10_state.md R44); `0xF4` to `0xFF` are reserved and read 0. -/
def State.globalRegister (s : State) : Nat → Word
  | 0x0 => BitVec.ofNat 32 s.shared.now
  | 0x1 => BitVec.ofNat 32 s.shared.hfCount
  | 0x2 => BitVec.ofNat 32 s.shared.dsCount
  | 0x3 => faultCode s.fault
  | _ => 0

/-- The register number `num`. None where there is no such register (no such channel, or a number above `0xFF`), and in
every state whose `now` has reached `0xFFFFFFFF`, which a finite view must refuse (10_state.md R43, log 10). From `0xF0`
upward the numbers are the global registers', also when channel 15 exists (log 15). -/
def State.readRegister (s : State) (num : Nat) : Option Word :=
  if 0xFFFFFFFF ≤ s.shared.now then none
  else if 0x100 ≤ num then none
  else if 0xF0 ≤ num then some (s.globalRegister (num - 0xF0))
  else
    match s.chans[num / 0x10]? with
    | some c => some (c.register (num % 0x10))
    | none => none

/-- `irq_line[ch]` of the machine (10_state.md R35); false where there is no such channel. -/
def State.irqLine (s : State) (ch : Nat) : Bool :=
  match s.chans[ch]? with
  | some c => c.irqLine
  | none => false

end Sys2Proof.Machine
end

