-- ==== Sys2Proof/Safety.lean ====
section
/-!
DEFINITION. The terms in which statements speak about the machine: when a stimulus has no step (30_encoding.md R118), the
invariants of 10_state.md R30 with the windows of 70_reset_and_hazards.md R258, the hazard of R251, what of a state is
specified (10_state.md R54, 70_reset_and_hazards.md R242), runs and their fairness (20_memory.md R78).
-/

namespace Sys2Proof.Machine

/-! ### Where a stimulus may be run -/

/-- No fault, and `c` is the control block of channel `ch`. -/
def Live (s : State) (ch : Nat) (c : Channel) : Prop := s.fault = none ∧ s.chans[ch]? = some c

/-- Live, and no cooperative operation in flight: a host operation may be issued (30_encoding.md R118, NE1 and NE8). -/
def Ready (s : State) (ch : Nat) (c : Channel) : Prop := s.fault = none ∧ s.coop = none ∧ s.chans[ch]? = some c

/-- Live, and micro-step `p` of an operation on channel `ch` comes next. -/
def InFlight (s : State) (ch : Nat) (c : Channel) (p : Pending) : Prop :=
  s.fault = none ∧ s.coop = some ⟨ch, p⟩ ∧ s.chans[ch]? = some c

/-- The rows NE1 to NE8 of 30_encoding.md R118. -/
def NotEnabled.holds (why : NotEnabled) (s : State) (i : Instr) : Prop :=
  match why with
  | .ne1 => i.op.startsCooperative = true ∧ s.coop ≠ none
  | .ne2 => i = .costep ∧ s.coop = none
  | .ne3 => ∃ ch p c, i = .taskw ch p ∧ s.chans[ch]? = some c ∧
      ¬(c.wt.registered = true ∧ c.wt.due.reached s.shared.now = true)
  | .ne4 => ∃ ch p c, i = .taskr ch p ∧ s.chans[ch]? = some c ∧
      ¬(c.rt.registered = true ∧ c.rt.due.reached s.shared.now = true)
  | .ne5 => ∃ ch c, i = .hwload ch ∧ s.chans[ch]? = some c ∧
      ¬(c.initialized = true ∧ c.isr.txe = false ∧ c.tsrBusy = false)
  | .ne6 => ∃ ch c, i = .hwdone ch ∧ s.chans[ch]? = some c ∧ ¬(c.initialized = true ∧ c.tsrBusy = true)
  | .ne7 => ∃ ch b c, i = .hwrx ch b ∧ s.chans[ch]? = some c ∧ c.initialized = false
  | .ne8 => s.fault ≠ none

/-! ### The outcome table of IRQ (43_interrupt_mux.md R174), written from the table and not from the sub-steps -/

/-- The columns of sub-steps 1 and 2: the channel after the transmit side of an invocation at time `now`. -/
def transmitOutcome (now : Nat) (c : Channel) : Channel :=
  if c.ier.txeie && c.isr.txe then
    match c.wq.data with
    | b :: rest =>
      { c with
        wq := { c.wq with data := rest }
        tdr := b
        isr := { c.isr with txe := false, tc := false }
        txlog := c.txlog ++ [b] }
    | [] =>
      if c.isr.tc then
        { c with ier := { c.ier with txeie := false, tcie := false }, wt := { c.wt with due := .ticks now } }
      else { c with ier := { c.ier with txeie := false, tcie := true } }
  else if c.ier.tcie && c.isr.tc then
    { c with ier := { c.ier with tcie := false }, wt := { c.wt with due := .ticks now } }
  else c

/-- Whether those columns say `WT.due <- now`. -/
def transmitWakes (c : Channel) : Bool :=
  if c.ier.txeie && c.isr.txe then c.wq.data.isEmpty && c.isr.tc else c.ier.tcie && c.isr.tc

/-- The column of sub-step 3: the channel after the receive side of an invocation at time `now`. -/
def receiveOutcome (now : Nat) (c : Channel) : Channel :=
  if c.ier.rxneie && c.isr.rxne then
    if c.rq.data.length < c.rq.cap then
      { c with
        isr := { c.isr with rxne := false }
        rq := { c.rq with data := c.rq.data ++ [c.rdr] }
        rt := { c.rt with due := .ticks now } }
    else { c with isr := { c.isr with rxne := false }, rt := { c.rt with due := .ticks now } }
  else c

/-! ### The causes of faults (60_exceptions.md R206, column "cause") -/

/-- The counter the write path of the channel releases is 0 (41_async_write.md R141). -/
def nothingToRelease (s : State) (c : Channel) : Prop := (if c.lp then s.shared.dsCount else s.shared.hfCount) = 0

/-- ENQUEUE `ph1` finds its slot not as it needs it: registered from Idle, unregistered while Draining. -/
def enqueueSlotBad (c : Channel) : Prop :=
  (c.writeState = .idle ∧ c.wt.registered = true) ∨ (c.writeState = .draining ∧ c.wt.registered = false)

/-- What each reason is raised for: the operation, whole with P = 0 or its micro-step by COSTEP, the state it finds, and
the cause in the table's column. Where two reasons apply the first in the operation's own order is raised: CANCEL `ph2`
releases the clock before it unregisters the slot, TASKW `ph1` the other way round (60_exceptions.md R215 (d)). TASKR `ph0`,
and TASKW with P = 0, have their slot registered whenever they are enabled (30_encoding.md R118, NE3 and NE4). -/
def FaultReason.causedBy (r : FaultReason) (s : State) (i : Instr) : Prop :=
  match r with
  | .pgUnderflow =>
    (∃ ch c, i = .taskw ch false ∧ Ready s ch c ∧ c.wt.registered = true ∧ c.wt.due.reached s.shared.now = true ∧
      nothingToRelease s c) ∨
    (∃ ch c, i = .costep ∧ InFlight s ch c .taskwPh1 ∧ c.wt.registered = true ∧ nothingToRelease s c) ∨
    (∃ ch c, i = .cancel ch false ∧ Ready s ch c ∧ c.readState = .armed ∧ s.shared.hfCount = 0) ∨
    (∃ ch c, i = .costep ∧ InFlight s ch c .cancelPh2 ∧ s.shared.hfCount = 0)
  | .schedBadSlot =>
    (∃ ch bs c, i = .enqueue ch false bs ∧ Ready s ch c ∧ c.initialized = true ∧ c.wqAttached = true ∧
      1 ≤ min bs.length (c.wq.cap - c.wq.data.length) ∧ enqueueSlotBad c) ∨
    (∃ ch k n c, i = .costep ∧ InFlight s ch c (.enqueuePh1 k n) ∧ enqueueSlotBad c) ∨
    (∃ ch p timeout c, i = .arm ch p timeout ∧ Ready s ch c ∧ c.initialized = true ∧ c.rqAttached = true ∧
      c.readState = .idle ∧ c.rt.registered = true) ∨
    (∃ ch c, i = .cancel ch false ∧ Ready s ch c ∧ c.readState = .armed ∧ s.shared.hfCount ≠ 0 ∧
      c.rt.registered = false) ∨
    (∃ ch c, i = .costep ∧ InFlight s ch c .cancelPh2 ∧ s.shared.hfCount ≠ 0 ∧ c.rt.registered = false) ∨
    (∃ ch c, i = .costep ∧ InFlight s ch c .taskwPh1 ∧ c.wt.registered = false) ∨
    (∃ ch c, i = .irq ch ∧ Live s ch c ∧
      ((transmitWakes c = true ∧ c.wt.registered = false) ∨
        (c.ier.rxneie = true ∧ c.isr.rxne = true ∧ c.rt.registered = false)))
  | .reinit => ∃ ch lp c, i = .init ch lp ∧ Ready s ch c ∧ c.initialized = true
  | .reattach => ∃ ch w r c, i = .attach ch w r ∧ Ready s ch c ∧ c.initialized = true ∧
      (c.wqAttached = true ∨ c.rqAttached = true)

/-! ### Running an operation by hand -/

/-- COSTEPs until no operation is in flight, at most `n` of them (44_environment.md R185). -/
def costepsToEnd : Nat → State → Result
  | 0, s => .next s
  | n + 1, s =>
    match s.coop with
    | none => .next s
    | some _ =>
      match exec .costep s with
      | .next t => costepsToEnd n t
      | .fault r => .fault r
      | .refused r => .refused r

/-! ### The operation in flight, seen from one channel -/

/-- The micro-step pending on channel `ch`, if the operation in flight is on it. -/
def State.pendingOn (s : State) (ch : Nat) : Option Pending :=
  match s.coop with
  | some co => if co.ch = ch then some co.next else none
  | none => none

/-- A micro-step of ENQUEUE is pending. -/
def enqueuePending : Option Pending → Bool
  | some (.enqueuePh1 _ _) | some (.enqueuePh2 _ _) => true
  | _ => false

/-- A micro-step of ENQUEUE that follows the re-arm is pending: the window of 70_reset_and_hazards.md R251. -/
def enqueueWindow : Option Pending → Bool
  | some (.enqueuePh2 _ _) => true
  | _ => false

/-- A micro-step of ARM is pending. -/
def armPending (p : Option Pending) : Bool := p == some .armPh1 || p == some .armPh2

/-- A micro-step of CANCEL is pending. -/
def cancelPending (p : Option Pending) : Bool := p == some .cancelPh1 || p == some .cancelPh2

/-- The write path of the channel holds its slot and its power-gate resource: Draining, or TASKW about to release them
(70_reset_and_hazards.md R258). -/
def writeHeld (p : Option Pending) (c : Channel) : Bool := c.writeState == .draining || p == some .taskwPh1

/-- The read path of the channel holds the clock: Armed, or CANCEL about to release it (70_reset_and_hazards.md R258). -/
def readHeld (p : Option Pending) (c : Channel) : Bool := c.readState == .armed || cancelPending p

/-- How many requests of the high-frequency clock are the channel's. -/
def hfShare (p : Option Pending) (c : Channel) : Nat :=
  (if readHeld p c then 1 else 0) + (if writeHeld p c && !c.lp then 1 else 0)

/-- How many suppressions of deep sleep are the channel's. -/
def dsShare (p : Option Pending) (c : Channel) : Nat := if writeHeld p c && c.lp then 1 else 0

/-! ### The invariant that every step keeps -/

/-- What holds of every channel in every state a run can reach, hazard or not; `p` is the micro-step pending on it. -/
structure SoundChannel (p : Option Pending) (c : Channel) : Prop where
  /-- 20_memory.md R63. -/
  wqFits : c.wq.data.length ≤ c.wq.cap
  /-- 20_memory.md R63. -/
  rqFits : c.rq.data.length ≤ c.rq.cap
  /-- 10_state.md R21, R24: a write is only ever active on an initialised channel with a write queue. -/
  writeNeeds : writeHeld p c = true ∨ enqueuePending p = true → c.initialized = true ∧ c.wqAttached = true
  /-- 10_state.md R21, R25: the same of a read. -/
  readNeeds : readHeld p c = true ∨ armPending p = true → c.initialized = true ∧ c.rqAttached = true
  /-- 40_lifecycle.md R131, R132: attachment and callback come after bring-up. -/
  setupNeeds : c.wqAttached = true ∨ c.rqAttached = true ∨ c.cbEn = true → c.initialized = true
  /-- 10_state.md R54, R130: before bring-up no source is enabled, nothing is in flight and nothing has been sent. -/
  beforeBringUp : c.initialized = false →
    c.ier = ⟨false, false, false⟩ ∧ c.tsrBusy = false ∧ c.txlog = c.linelog
  /-- I-a for the write task, with its windows (10_state.md R30, 70_reset_and_hazards.md R258). -/
  wtHeld : c.wt.registered = writeHeld p c
  /-- I-a for the read task, with its windows. -/
  rtHeld : c.rt.registered = (readHeld p c || armPending p)
  /-- I-b for the receive enable, with its windows. -/
  rxneieHeld : c.ier.rxneie = (c.readState == .armed || p == some .armPh2 || p == some .cancelPh1)
  /-- 70_reset_and_hazards.md R258: the sub-states inside the windows. -/
  enqueueWindowDraining : enqueueWindow p = true → c.writeState = .draining
  /-- The same of TASKW. -/
  taskwWindowIdle : p = some .taskwPh1 → c.writeState = .idle
  /-- The same of ARM and CANCEL. -/
  readWindowIdle : armPending p = true ∨ cancelPending p = true → c.readState = .idle
  /-- The same of TASKR. -/
  taskrWindowArmed : p = some .taskrPh1 → c.readState = .armed
  /-- 44_environment.md R180, item 2. -/
  tcExact : c.initialized = true → c.isr.tc = (c.isr.txe && !c.tsrBusy)
  /-- 44_environment.md R180, item 4: what was sent, what is being shifted and what waits are all that was written. -/
  lineOrder : c.initialized = true →
    c.txlog = c.linelog ++ (if c.tsrBusy then [c.tsr] else []) ++ (if c.isr.txe then [] else [c.tdr])

/-- What holds in every state a run from reset can reach. -/
structure Sound (s : State) : Prop where
  channels : ∀ ch c, s.chans[ch]? = some c → SoundChannel (s.pendingOn ch) c
  /-- The operation in flight is on a channel of the machine (30_encoding.md R116 (c)). -/
  coopChannel : ∀ co, s.coop = some co → co.ch < s.nch
  /-- I-c for the high-frequency clock (10_state.md R30). -/
  hfExact : s.shared.hfCount = (s.chans.mapIdx fun ch c => hfShare (s.pendingOn ch) c).sum
  /-- I-c for deep sleep. -/
  dsExact : s.shared.dsCount = (s.chans.mapIdx fun ch c => dsShare (s.pendingOn ch) c).sum

/-! ### The invariant of runs that avoid the hazard of 70_reset_and_hazards.md R251 -/

/-- An IRQ step in the window between ENQUEUE `ph1` and `ph2` of its channel whose sub-step 2 acts
(70_reset_and_hazards.md R251). -/
def Hazard (s : State) (i : Instr) : Prop :=
  ∃ ch c k n, i = .irq ch ∧ s.coop = some ⟨ch, .enqueuePh2 k n⟩ ∧ s.chans[ch]? = some c ∧
    (irqTransmitEmpty ⟨c, s.shared⟩).c.tcRequest = true

/-- I-b for the transmit side with its windows, and what makes it inductive; `now` is the time. -/
structure OrderlyChannel (now : Nat) (p : Option Pending) (c : Channel) : Prop where
  /-- I-b: an enable bit set implies Draining (10_state.md R30). -/
  enabledDraining : c.ier.txeie = true ∨ c.ier.tcie = true → c.writeState = .draining
  /-- I-b: Draining implies a source enabled or the completion task due (10_state.md R30). -/
  drainingDriven : c.writeState = .draining →
    c.ier.txeie = true ∨ c.ier.tcie = true ∨ c.wt.due.reached now = true ∨ enqueueWindow p = true
  /-- A completion task that is due finds both transmit sources disabled: they were cleared by the sub-steps. -/
  dueQuiet : c.wt.ready now = true → c.ier.txeie = false ∧ c.ier.tcie = false
  /-- Bytes in the write queue are being served, but in the windows of ENQUEUE (70_reset_and_hazards.md R260). -/
  queueServed : c.wq.data ≠ [] → c.ier.txeie = true ∨ enqueuePending p = true
  /-- The completion task is never due by elapsed time (41_async_write.md R141). -/
  neverTimed : c.wt.registered = true → c.wt.due = .inf ∨ c.wt.due.reached now = true
  /-- In the window the re-arm stands (70_reset_and_hazards.md R258). -/
  windowRearmed : enqueueWindow p = true → c.wt.due = .inf

/-- What holds in every state of a run from reset that avoids the hazard. -/
structure Orderly (s : State) : Prop where
  sound : Sound s
  channels : ∀ ch c, s.chans[ch]? = some c → OrderlyChannel s.shared.now (s.pendingOn ch) c

/-! ### What of a state is specified (10_state.md R54, 70_reset_and_hazards.md R242) -/

/-- A channel with every value that is unspecified where it stands replaced by one and the same value. -/
def Channel.known (c : Channel) : Channel :=
  { c with
    readTimeout := if c.rt.registered then c.readTimeout else 0
    cbCtx := if c.cbEn then c.cbCtx else 0
    lp := c.initialized && c.lp
    isr := if c.initialized then c.isr else ⟨false, false, false⟩
    tdr := if c.initialized && !c.isr.txe then c.tdr else 0
    rdr := if c.initialized && c.isr.rxne then c.rdr else 0
    tsr := if c.tsrBusy then c.tsr else 0
    wt := if c.wt.registered then c.wt else ⟨false, .inf⟩
    rt := if c.rt.registered then c.rt else ⟨false, .inf⟩ }

/-- The state likewise. The count of free values drawn is the model's own and is left out too. -/
def State.known (s : State) : State :=
  { s with chans := s.chans.map Channel.known, shared := { s.shared with draws := 0 } }

/-- What of an outcome is specified. -/
def knownResult : Result → Result
  | .next t => .next t.known
  | .fault (.raised r t) => .fault (.raised r t.known)
  | .refused r => .refused r

/-- A reset state of parameters `p` (10_state.md R54), whatever its unspecified values are and whatever script is loaded. -/
def IsReset (p : Params) (s : State) : Prop :=
  { s with stream := [] : State }.known = (State.resetWith p).known

/-- The states a run of the machine of parameters `p` reaches from reset without taking the hazard's step
(10_state.md R30): any script may be loaded at reset. -/
inductive Reached (p : Params) : State → Prop where
  | reset {s : State} (h : IsReset p s) : Reached p s
  | step {s t u : State} {i : Instr} (hs : Reached p s) (hi : s.fetch = .ok (i, u)) (hq : ¬Hazard u i)
      (ht : Machine.step s = .next t) : Reached p t

/-! ### The write path's bytes (41_async_write.md R142, P1) -/

/-- The bytes of channel `ch` that have been accepted: those written to TDR, then those still queued. -/
def acceptedSoFar (s : State) (ch : Nat) : List Byte :=
  match s.chans[ch]? with
  | some c => c.txlog ++ c.wq.data
  | none => []

/-- The bytes an instruction is accepted for on channel `ch`: ENQUEUE's prefix `take(k, bs)` (20_memory.md R64), if it is
past its two checks, else none. -/
def acceptedBy (i : Instr) (s : State) (ch : Nat) : List Byte :=
  match i, s.chans[ch]? with
  | .enqueue ch' _ bs, some c =>
    if ch' = ch ∧ c.initialized = true ∧ c.wqAttached = true then bs.take (c.wq.push bs).1 else []
  | _, _ => []

/-- The machine run over a list of instructions: the state after them, if each of them has a step. -/
def execAll : List Instr → State → Option State
  | [], s => some s
  | i :: is, s =>
    match exec i s with
    | .next t => execAll is t
    | .fault _ => none
    | .refused _ => none

/-- The bytes accepted on channel `ch` over a run, in call order. -/
def acceptedOver : List Instr → State → Nat → List Byte
  | [], _, _ => []
  | i :: is, s, ch =>
    acceptedBy i s ch ++
      match exec i s with
      | .next t => acceptedOver is t ch
      | .fault _ => []
      | .refused _ => []

/-! ### Runs and fairness (20_memory.md R78) -/

/-- An infinite run: `act n` is the step taken in `st n`. -/
def IsRun (st : Nat → State) (act : Nat → Instr) : Prop := ∀ n, exec (act n) (st n) = .next (st (n + 1))

/-- The stimulus has a step in the state. -/
def Enabled (s : State) (i : Instr) : Prop := ∃ t, exec i s = .next t

/-- The fairness of 20_memory.md R78, clauses (a) to (d). No statement of this package assumes it (log 13). Clause (c) does
not say, as (a) and (b) do, that the condition stays: that a start is owed only to a slot which stays registered and due is
the model's reading (DESIGN CHOICE, log 19). -/
structure Fair (st : Nat → State) (act : Nat → Instr) : Prop where
  irqServed : ∀ ch n, (∀ m, n ≤ m → (st m).irqLine ch = true) → ∃ m, n ≤ m ∧ act m = .irq ch
  loadTaken : ∀ ch n, (∀ m, n ≤ m → Enabled (st m) (.hwload ch)) → ∃ m, n ≤ m ∧ act m = .hwload ch
  doneTaken : ∀ ch n, (∀ m, n ≤ m → Enabled (st m) (.hwdone ch)) → ∃ m, n ≤ m ∧ act m = .hwdone ch
  taskwStarted : ∀ ch n,
    (∀ m, n ≤ m → ∃ c, (st m).chans[ch]? = some c ∧ c.wt.ready (st m).shared.now = true) →
      ∃ m p, n ≤ m ∧ act m = .taskw ch p
  taskrStarted : ∀ ch n,
    (∀ m, n ≤ m → ∃ c, (st m).chans[ch]? = some c ∧ c.rt.ready (st m).shared.now = true) →
      ∃ m p, n ≤ m ∧ act m = .taskr ch p
  coopAdvanced : ∀ n, (st n).coop ≠ none → ∃ m, n ≤ m ∧ act m = .costep
  timeUnbounded : ∀ t, ∃ n, t < (st n).shared.now

end Sys2Proof.Machine
end

