-- ==== Sys2Proof/Certificates/Slice0/Obligations.lean ====
section
/-!
DEFINITION. The statements about the machine, for the provers. Each docstring names the rule of spec/ it formalises.
-/

open Sys2Proof Sys2Proof.Machine

/-! ### Encoding -/

/-- Words written out from 30_encoding.md R104 to R107 (and listed in 95_test_vectors.md 2.1) decode to what they stand
for, one per operation. -/
def Obligations.SpecWordsDecode : Prop :=
  decode 3 [0x11000001] = .ok (.init 1 true, []) ∧
  decode 3 [0x22000002] = .ok (.attach 2 false true, []) ∧
  decode 3 [0x300100A5] = .ok (.setcb 0 true 0x00A5, []) ∧
  decode 3 [0x40800001, 0x000000AA] = .ok (.enqueue 0 true [0xAA], []) ∧
  decode 3 [0x40000005, 0x04030201, 0x00000005] = .ok (.enqueue 0 false [1, 2, 3, 4, 5], []) ∧
  decode 3 [0x50800064] = .ok (.arm 0 true 100, []) ∧
  decode 3 [0x60000000] = .ok (.cancel 0 false, []) ∧
  decode 3 [0x70000010] = .ok (.drain 0 16, []) ∧
  decode 3 [0x80800000] = .ok (.taskw 0 true, []) ∧
  decode 3 [0x92000000] = .ok (.taskr 2 false, []) ∧
  decode 3 [0xA1000000] = .ok (.irq 1, []) ∧
  decode 3 [0xB0000000] = .ok (.hwload 0, []) ∧
  decode 3 [0xC0000000] = .ok (.hwdone 0, []) ∧
  decode 3 [0xD0000041] = .ok (.hwrx 0 0x41, []) ∧
  decode 3 [0xE07FFFFF] = .ok (.tick 8388607, []) ∧
  decode 3 [0xF0000000] = .ok (.costep, [])

/-- Every well-formed instruction of a machine with 1 to 16 channels decodes back from its words, at every value of every
operand, whatever follows in the stream. -/
def Obligations.DecodeOfEncode : Prop :=
  ∀ (nch : Nat) (i : Instr) (rest : List Word), 1 ≤ nch → nch ≤ 16 → i.wf nch = true →
    decode nch (encode i ++ rest) = .ok (i, rest)

/-- Every word sequence has one meaning: what decodes is well-formed and is spelt by exactly the words that were read. -/
def Obligations.EncodeOfDecode : Prop :=
  ∀ (nch : Nat) (ws rest : List Word) (i : Instr), decode nch ws = .ok (i, rest) →
    i.wf nch = true ∧ ws = encode i ++ rest

/-- No word is spelt by two rows of the opcode map (30_encoding.md R104). -/
def Obligations.OpcodeRowsAreDisjoint : Prop :=
  ∀ (w : Word) (r r' : OpRow), r ∈ opTable → r' ∈ opTable → r.spells w = true → r'.spells w = true → r = r'

/-- The cases (a) to (f) of 30_encoding.md R116 have no step, whatever the machine's state: (a) and (b) no row spells the
word, (c) there is no such channel, (d) SETCB's context without a callback, (e) ENQUEUE's non-zero padding, (f) ENQUEUE's
truncated payload. -/
def Obligations.IllegalStimulusHasNoStep : Prop :=
  ∀ (s : State) (w : Word) (ws : List Word), s.stream = w :: ws →
    ((∀ r ∈ opTable, r.spells w = false) ∨
      s.nch ≤ chField w ∨
      (opField w = Op.setcb.code ∧ w.getLsbD 16 = false ∧ w.extractLsb' 0 16 ≠ 0) ∨
      (opField w = Op.enqueue.code ∧ payloadWords (w.extractLsb' 0 8).toNat ≤ ws.length ∧
        ∃ b ∈ (unpackBytes (ws.take (payloadWords (w.extractLsb' 0 8).toNat))).drop (w.extractLsb' 0 8).toNat, b ≠ 0) ∨
      (opField w = Op.enqueue.code ∧ ws.length < payloadWords (w.extractLsb' 0 8).toNat)) →
    ∃ why, step s = .refused (.illegal why)

/-- A step consumes the words of the stimulus at the head of the stream and is the meaning of that stimulus on the state
so left (30_encoding.md R100, R117). That the stream, which R100 calls an input and not state, is held in the state, and
that its words are consumed also by a stimulus that faults, are the model's choices (DESIGN CHOICE, log 1 and log 9). -/
def Obligations.StepRunsDecodedStimulus : Prop :=
  ∀ (s : State) (i : Instr) (rest : List Word), decode s.nch s.stream = .ok (i, rest) →
    step s = exec i { s with stream := rest }

/-- 20_memory.md R61: byte `i` of a sequence is bits `8*(i mod 4)+7 : 8*(i mod 4)` of payload word `i div 4`, unused bytes
are zero, and the payload of ENQUEUE and of the DRAIN response is packed so. -/
def Obligations.PayloadIsLittleEndian : Prop :=
  (∀ bs : List Byte, (packBytes bs).length = payloadWords bs.length) ∧
  (∀ (bs : List Byte) (i : Nat), i < 4 * (packBytes bs).length →
    ((packBytes bs)[i / 4]?.map fun w => w.extractLsb' (8 * (i % 4)) 8) = some (bs.getD i 0)) ∧
  (∀ (ch : Nat) (p : Bool) (bs : List Byte), (encode (.enqueue ch p bs)).tail = packBytes bs) ∧
  (∀ r : Response, r.words.tail = packBytes r.payload)

/-- The fields of a response word, its reserved bits zero (30_encoding.md R110), with the status codes 0 to 5
(60_exceptions.md R200). -/
def Obligations.ResponseWordFields : Prop :=
  ∀ r : Response, r.ch < 16 → r.val < 65536 →
    r.word.extractLsb' 28 4 = r.op.code ∧ (r.word.extractLsb' 24 4).toNat = r.ch ∧
      r.word.extractLsb' 20 4 =
        (match r.st with
          | .ok => 0
          | .notInitialized => 1
          | .notAttached => 2
          | .alreadyActive => 3
          | .notArmed => 4
          | .queueFull => 5) ∧
      r.word.extractLsb' 16 4 = 0 ∧ (r.word.extractLsb' 0 16).toNat = r.val

/-- The fields of an event word, its reserved bits zero and KIND 3 never used (30_encoding.md R112, R113). -/
def Obligations.EventWordFields : Prop :=
  ∀ e : Event, e.ch < 16 →
    e.word.extractLsb' 28 4 = 0 ∧ (e.word.extractLsb' 24 4).toNat = e.ch ∧ e.word.extractLsb' 18 6 = 0 ∧
      e.word.extractLsb' 16 2 = (match e.kind with | .writeDone => 0 | .readData => 1 | .readTimeout => 2) ∧
      e.word.extractLsb' 0 16 = e.ctx

/-- The register view (10_state.md R36 to R44): every register of a channel and every global register under its number,
bit by bit, reserved bits and reserved numbers 0, INF shown as `0xFFFFFFFF`, FAULT with the codes of 60_exceptions.md R206.
LP shows 0 until INIT (R54). The numbers from `0xF0` are the global registers' also when a channel 15 exists (the model's
choice, log 15), and the view ends at time `0xFFFFFFFF` (log 10). -/
def Obligations.RegisterViewShowsTheState : Prop :=
  ∀ s : State, s.shared.now < 0xFFFFFFFF →
    (∀ (ch : Nat) (c : Channel), ch < 15 → s.chans[ch]? = some c →
      ∃ r : Nat → Word, (∀ k, k < 0x10 → s.readRegister (0x10 * ch + k) = some (r k)) ∧
        ((r 0x0).getLsbD 0 = c.initialized ∧ (r 0x0).getLsbD 1 = (c.writeState == .draining) ∧
          (r 0x0).getLsbD 2 = (c.readState == .armed) ∧ (r 0x0).getLsbD 3 = c.wqAttached ∧
          (r 0x0).getLsbD 4 = c.rqAttached ∧ (r 0x0).getLsbD 5 = c.cbEn ∧
          (r 0x0).getLsbD 6 = (c.initialized && c.lp) ∧ (r 0x0).extractLsb' 7 25 = 0) ∧
        ((r 0x1).getLsbD 0 = c.ier.txeie ∧ (r 0x1).getLsbD 1 = c.ier.tcie ∧ (r 0x1).getLsbD 2 = c.ier.rxneie ∧
          (r 0x1).extractLsb' 3 29 = 0) ∧
        ((r 0x2).getLsbD 0 = c.isr.txe ∧ (r 0x2).getLsbD 1 = c.isr.tc ∧ (r 0x2).getLsbD 2 = c.isr.rxne ∧
          (r 0x2).extractLsb' 3 29 = 0) ∧
        ((r 0x3).extractLsb' 0 8 = c.tdr ∧ (r 0x3).extractLsb' 8 24 = 0) ∧
        ((r 0x4).extractLsb' 0 8 = c.rdr ∧ (r 0x4).extractLsb' 8 24 = 0) ∧
        ((r 0x5).extractLsb' 0 23 = BitVec.ofNat 23 c.readTimeout ∧ (r 0x5).extractLsb' 23 9 = 0) ∧
        ((r 0x6).getLsbD 0 = c.wt.registered ∧ (r 0x6).extractLsb' 1 31 = 0 ∧
          (c.wt.due = .inf → r 0x7 = 0xFFFFFFFF) ∧ ∀ d, c.wt.due = .ticks d → (r 0x7).toNat = d % 2 ^ 32) ∧
        ((r 0x8).getLsbD 0 = c.rt.registered ∧ (r 0x8).extractLsb' 1 31 = 0 ∧
          (c.rt.due = .inf → r 0x9 = 0xFFFFFFFF) ∧ ∀ d, c.rt.due = .ticks d → (r 0x9).toNat = d % 2 ^ 32) ∧
        (c.wq.data.length < 2 ^ 32 → (r 0xA).toNat = c.wq.data.length) ∧
        (c.rq.data.length < 2 ^ 32 → (r 0xB).toNat = c.rq.data.length) ∧
        ((r 0xC).extractLsb' 0 16 = c.cbCtx ∧ (r 0xC).extractLsb' 16 16 = 0) ∧
        r 0xD = 0 ∧ r 0xE = 0 ∧ r 0xF = 0) ∧
    ∃ g : Nat → Word, (∀ k, k < 0x10 → s.readRegister (0xF0 + k) = some (g k)) ∧
      (g 0x0).toNat = s.shared.now ∧
      (s.shared.hfCount < 2 ^ 32 → (g 0x1).toNat = s.shared.hfCount) ∧
      (s.shared.dsCount < 2 ^ 32 → (g 0x2).toNat = s.shared.dsCount) ∧
      g 0x3 = (match s.fault with
        | none => 0
        | some .pgUnderflow => 1
        | some .schedBadSlot => 2
        | some .reinit => 3
        | some .reattach => 4) ∧
      ∀ k, 0x4 ≤ k → k < 0x10 → g k = 0

/-! ### Queues -/

/-- 20_memory.md R63 to R67: order is kept, nothing is duplicated or altered, the counts are those stated, and no
operation leaves a queue over its capacity. -/
def Obligations.QueuesAreFifo : Prop :=
  ∀ (q : ByteQueue) (bs : List Byte) (b : Byte) (m : Nat), q.wf = true →
    ((q.push bs).1 = min bs.length (q.cap - q.data.length) ∧ (q.push bs).2.data = q.data ++ bs.take (q.push bs).1 ∧
      (q.push bs).2.cap = q.cap ∧ (q.push bs).2.wf = true) ∧
    ((q.pop m).1.length = min m q.data.length ∧ (q.pop m).1 ++ (q.pop m).2.data = q.data ∧
      (q.pop m).2.cap = q.cap ∧ (q.pop m).2.wf = true) ∧
    ((q.pushOne b).1 = decide (q.data.length < q.cap) ∧
      (q.pushOne b).2.data = q.data ++ (if (q.pushOne b).1 then [b] else []) ∧
      (q.pushOne b).2.cap = q.cap ∧ (q.pushOne b).2.wf = true) ∧
    (q.popOne.1.toList ++ q.popOne.2.data = q.data ∧ (q.popOne.1 = none ↔ q.data = []) ∧
      q.popOne.2.cap = q.cap ∧ q.popOne.2.wf = true)

/-- The machine's memory, its byte queues, stays within its capacities, and neither the number of channels nor a capacity
ever changes (20_memory.md R63, 00_scope.md R6). -/
def Obligations.StepKeepsMemoryWellFormed : Prop :=
  ∀ s t : State, Memory.wf s = true → step s = .next t →
    Memory.wf t = true ∧ t.chans.map (fun c => (c.wq.cap, c.rq.cap)) = s.chans.map (fun c => (c.wq.cap, c.rq.cap))

/-! ### Lifecycle -/

/-- 40_lifecycle.md R130, with its frame; a second INIT is the fault REINIT. -/
def Obligations.InitBringsUpOnce : Prop :=
  ∀ (s : State) (ch : Nat) (c : Channel) (lp : Bool), Ready s ch c →
    (c.initialized = false →
      exec (.init ch lp) s = .next (s.put ch
        ⟨{ c with initialized := true, lp := lp, ier := ⟨false, false, false⟩, isr := ⟨true, true, false⟩,
                  tsrBusy := false },
          { s.shared with resp := s.shared.resp ++ [⟨.init, ch, .ok, 1, []⟩] }⟩)) ∧
    (c.initialized = true →
      exec (.init ch lp) s = .fault (.raised .reinit { s with fault := some .reinit }))

/-- 40_lifecycle.md R131, with its frame; a second attachment is the fault REATTACH. -/
def Obligations.AttachSuppliesQueuesOnce : Prop :=
  ∀ (s : State) (ch : Nat) (c : Channel) (w r : Bool), Ready s ch c →
    (c.initialized = false →
      exec (.attach ch w r) s = .next (s.put ch
        ⟨c, { s.shared with resp := s.shared.resp ++ [⟨.attach, ch, .notInitialized, 0, []⟩] }⟩)) ∧
    (c.initialized = true → c.wqAttached = false → c.rqAttached = false →
      exec (.attach ch w r) s = .next (s.put ch
        ⟨{ c with wqAttached := w, rqAttached := r },
          { s.shared with resp := s.shared.resp ++ [⟨.attach, ch, .ok, 1, []⟩] }⟩)) ∧
    (c.initialized = true → (c.wqAttached = true ∨ c.rqAttached = true) →
      exec (.attach ch w r) s = .fault (.raised .reattach { s with fault := some .reattach }))

/-- 40_lifecycle.md R132, with its frame. -/
def Obligations.SetcbRegistersCallback : Prop :=
  ∀ (s : State) (ch : Nat) (c : Channel) (en : Bool) (ctx : BitVec 16), Ready s ch c →
    (c.initialized = false →
      exec (.setcb ch en ctx) s = .next (s.put ch
        ⟨c, { s.shared with resp := s.shared.resp ++ [⟨.setcb, ch, .notInitialized, 0, []⟩] }⟩)) ∧
    (c.initialized = true →
      exec (.setcb ch en ctx) s = .next (s.put ch
        ⟨{ c with cbEn := en, cbCtx := ctx },
          { s.shared with resp := s.shared.resp ++ [⟨.setcb, ch, .ok, 1, []⟩] }⟩))

/-- 60_exceptions.md R201: on an uninitialised channel ATTACH, SETCB, ENQUEUE and ARM answer NOT_INITIALIZED, and CANCEL
and DRAIN, which do not test it, answer NOT_ARMED; nothing else changes, with P = 0 or 1. -/
def Obligations.UninitialisedCallsAreRejected : Prop :=
  ∀ (s : State) (ch : Nat) (c : Channel) (i : Instr), Ready s ch c → c.initialized = false → c.readState = .idle →
    (((∃ w r, i = .attach ch w r) ∨ (∃ en ctx, i = .setcb ch en ctx) ∨ (∃ p bs, i = .enqueue ch p bs) ∨
        (∃ p timeout, i = .arm ch p timeout)) →
      exec i s = .next (s.put ch
        ⟨c, { s.shared with resp := s.shared.resp ++ [⟨i.op, ch, .notInitialized, 0, []⟩] }⟩)) ∧
    (((∃ p, i = .cancel ch p) ∨ (∃ max, i = .drain ch max)) →
      exec i s = .next (s.put ch ⟨c, { s.shared with resp := s.shared.resp ++ [⟨i.op, ch, .notArmed, 0, []⟩] }⟩))

/-- 60_exceptions.md R202: ENQUEUE tests only the write queue and ARM only the read queue. Without the queue of its
direction the call answers NOT_ATTACHED, whatever the other queue is; with it the call does not answer NOT_ATTACHED, whatever
the other queue is. -/
def Obligations.UnattachedCallsAreRejected : Prop :=
  ∀ (s : State) (ch : Nat) (c : Channel) (p : Bool), Ready s ch c → c.initialized = true →
    (∀ bs,
      (c.wqAttached = false →
        exec (.enqueue ch p bs) s = .next (s.put ch
          ⟨c, { s.shared with resp := s.shared.resp ++ [⟨.enqueue, ch, .notAttached, 0, []⟩] }⟩)) ∧
      (c.wqAttached = true → ∀ t, exec (.enqueue ch p bs) s = .next t →
        ∀ r ∈ t.shared.resp.drop s.shared.resp.length, r.st ≠ .notAttached)) ∧
    (∀ timeout,
      (c.rqAttached = false →
        exec (.arm ch p timeout) s = .next (s.put ch
          ⟨c, { s.shared with resp := s.shared.resp ++ [⟨.arm, ch, .notAttached, 0, []⟩] }⟩)) ∧
      (c.rqAttached = true → ∀ t, exec (.arm ch p timeout) s = .next t →
        ∀ r ∈ t.shared.resp.drop s.shared.resp.length, r.st ≠ .notAttached))

/-! ### Asynchronous write -/

/-- ENQUEUE that accepts nothing changes nothing: OK when nothing was offered, QUEUE_FULL otherwise (41_async_write.md
R140, 60_exceptions.md R204). -/
def Obligations.EnqueueOfNothingChangesNothing : Prop :=
  ∀ (s : State) (ch : Nat) (c : Channel) (p : Bool) (bs : List Byte), Ready s ch c → c.initialized = true →
    c.wqAttached = true → min bs.length (c.wq.cap - c.wq.data.length) = 0 →
      exec (.enqueue ch p bs) s = .next (s.put ch
        ⟨c, { s.shared with
          resp := s.shared.resp ++ [⟨.enqueue, ch, if bs = [] then .ok else .queueFull, 0, []⟩] }⟩)

/-- ENQUEUE with P = 0 from Idle: the accepted prefix queued, Draining, the completion task registered at INF, the clock
requested or, for the low-power variant, deep sleep suppressed instead, TXEIE set, the count answered (41_async_write.md
R140). -/
def Obligations.EnqueueStartsDraining : Prop :=
  ∀ (s : State) (ch : Nat) (c : Channel) (bs : List Byte) (k : Nat), Ready s ch c → c.initialized = true →
    c.wqAttached = true → k = min bs.length (c.wq.cap - c.wq.data.length) → 1 ≤ k → c.writeState = .idle →
    c.wt.registered = false →
      exec (.enqueue ch false bs) s = .next (s.put ch
        ⟨{ c with
            wq := { c.wq with data := c.wq.data ++ bs.take k }
            writeState := .draining
            wt := ⟨true, .inf⟩
            ier := { c.ier with txeie := true } },
          { s.shared with
            hfCount := if c.lp then s.shared.hfCount else s.shared.hfCount + 1
            dsCount := if c.lp then s.shared.dsCount + 1 else s.shared.dsCount
            pglog := s.shared.pglog ++ [if c.lp then .supDs else .enHf]
            resp := s.shared.resp ++ [⟨.enqueue, ch, if k = bs.length then .ok else .queueFull, k, []⟩] }⟩)

/-- ENQUEUE with P = 0 while Draining: no second task and no second power-gate acquisition, the due-time forced back to
INF (41_async_write.md R140, Scenario D). -/
def Obligations.EnqueueContinuesDraining : Prop :=
  ∀ (s : State) (ch : Nat) (c : Channel) (bs : List Byte) (k : Nat), Ready s ch c → c.initialized = true →
    c.wqAttached = true → k = min bs.length (c.wq.cap - c.wq.data.length) → 1 ≤ k → c.writeState = .draining →
    c.wt.registered = true →
      exec (.enqueue ch false bs) s = .next (s.put ch
        ⟨{ c with
            wq := { c.wq with data := c.wq.data ++ bs.take k }
            wt := ⟨true, .inf⟩
            ier := { c.ier with txeie := true } },
          { s.shared with
            resp := s.shared.resp ++ [⟨.enqueue, ch, if k = bs.length then .ok else .queueFull, k, []⟩] }⟩)

/-- TASKW with P = 0, its slot due: Idle, the slot unregistered, what was acquired released, WriteDone reported if a
callback is registered, no enable bit touched (41_async_write.md R141). The due-time the slot is left with is free: it is
some value, of which nothing is said (60_exceptions.md R227). -/
def Obligations.TaskwCompletesTheWrite : Prop :=
  ∀ (s : State) (ch : Nat) (c : Channel), Ready s ch c → c.wt.registered = true →
    c.wt.due.reached s.shared.now = true → (if c.lp then s.shared.dsCount else s.shared.hfCount) ≠ 0 →
      ∃ (d : Due) (n : Nat), exec (.taskw ch false) s = .next (s.put ch
        ⟨{ c with writeState := .idle, wt := ⟨false, d⟩ },
          { s.shared with
            hfCount := if c.lp then s.shared.hfCount else s.shared.hfCount - 1
            dsCount := if c.lp then s.shared.dsCount - 1 else s.shared.dsCount
            pglog := s.shared.pglog ++ [if c.lp then .alwDs else .disHf]
            events := s.shared.events ++ (if c.cbEn then [⟨ch, .writeDone, c.cbCtx⟩] else [])
            draws := n }⟩)

/-! ### Asynchronous read -/

/-- ARM with P = 0 on an initialised, attached, Idle channel: the timeout stored, the task registered at `now + timeout`,
RXNEIE set, the clock requested whatever `lp` is, Armed (42_async_read.md R150). -/
def Obligations.ArmStartsSupervision : Prop :=
  ∀ (s : State) (ch : Nat) (c : Channel) (timeout : Nat), Ready s ch c → c.initialized = true → c.rqAttached = true →
    c.readState = .idle → c.rt.registered = false →
      exec (.arm ch false timeout) s = .next (s.put ch
        ⟨{ c with
            readTimeout := timeout
            rt := ⟨true, .ticks (s.shared.now + timeout)⟩
            ier := { c.ier with rxneie := true }
            readState := .armed },
          { s.shared with
            hfCount := s.shared.hfCount + 1
            pglog := s.shared.pglog ++ [.enHf]
            resp := s.shared.resp ++ [⟨.arm, ch, .ok, 1, []⟩] }⟩)

/-- 60_exceptions.md R203, 70_reset_and_hazards.md R256 (P4): ARM while Armed is rejected and changes nothing, timeout,
slot and enable bits included, with P = 0 or 1. -/
def Obligations.ArmIsNotReentrant : Prop :=
  ∀ (s : State) (ch : Nat) (c : Channel) (p : Bool) (timeout : Nat), Ready s ch c → c.initialized = true →
    c.rqAttached = true → c.readState = .armed →
      exec (.arm ch p timeout) s = .next (s.put ch
        ⟨c, { s.shared with resp := s.shared.resp ++ [⟨.arm, ch, .alreadyActive, 0, []⟩] }⟩)

/-- CANCEL with P = 0. Armed: Idle, RXNEIE cleared, the clock released, the task unregistered, VAL 0 with ST = OK, no
event; not Armed: NOT_ARMED and nothing else (42_async_read.md R151). The due-time the slot is left with is free. -/
def Obligations.CancelStopsSupervision : Prop :=
  ∀ (s : State) (ch : Nat) (c : Channel), Ready s ch c →
    (c.readState = .armed → c.rt.registered = true → s.shared.hfCount ≠ 0 →
      ∃ (d : Due) (n : Nat), exec (.cancel ch false) s = .next (s.put ch
        ⟨{ c with readState := .idle, ier := { c.ier with rxneie := false }, rt := ⟨false, d⟩ },
          { s.shared with
            hfCount := s.shared.hfCount - 1
            pglog := s.shared.pglog ++ [.disHf]
            resp := s.shared.resp ++ [⟨.cancel, ch, .ok, 0, []⟩]
            draws := n }⟩)) ∧
    (c.readState = .idle →
      exec (.cancel ch false) s = .next (s.put ch
        ⟨c, { s.shared with resp := s.shared.resp ++ [⟨.cancel, ch, .notArmed, 0, []⟩] }⟩))

/-- 42_async_read.md R152: Armed, DRAIN pops and answers the oldest `min(max, len)` bytes and changes nothing else; not
Armed, it answers NOT_ARMED even if the queue holds bytes. -/
def Obligations.DrainReturnsTheOldestBytes : Prop :=
  ∀ (s : State) (ch : Nat) (c : Channel) (max : Nat), Ready s ch c →
    (c.readState = .armed →
      exec (.drain ch max) s = .next (s.put ch
        ⟨{ c with rq := { c.rq with data := c.rq.data.drop max } },
          { s.shared with
            resp := s.shared.resp ++ [⟨.drain, ch, .ok, min max c.rq.data.length, c.rq.data.take max⟩] }⟩)) ∧
    (c.readState = .idle →
      exec (.drain ch max) s = .next (s.put ch
        ⟨c, { s.shared with resp := s.shared.resp ++ [⟨.drain, ch, .notArmed, 0, []⟩] }⟩))

/-- TASKR with P = 0, its slot due: re-armed for `now + read_timeout`; ReadTimeout if the read queue is empty, ReadData
otherwise, if a callback is registered; nothing else (42_async_read.md R153). -/
def Obligations.TaskrRearmsAndReports : Prop :=
  ∀ (s : State) (ch : Nat) (c : Channel), Ready s ch c → c.rt.registered = true →
    c.rt.due.reached s.shared.now = true →
      exec (.taskr ch false) s = .next (s.put ch
        ⟨{ c with rt := ⟨true, .ticks (s.shared.now + c.readTimeout)⟩ },
          { s.shared with
            events := s.shared.events ++
              (if c.cbEn then [⟨ch, if c.rq.data = [] then .readTimeout else .readData, c.cbCtx⟩] else []) }⟩)

/-- The read window (42_async_read.md R154, P3): after ARM with `timeout` and `dt` ticks with no byte, TASKR is enabled
exactly when `dt ≥ timeout`. -/
def Obligations.ReadTimeoutFiresWhenElapsed : Prop :=
  ∀ (s t u : State) (ch : Nat) (c : Channel) (timeout dt : Nat), Ready s ch c → c.initialized = true →
    c.rqAttached = true → c.readState = .idle → exec (.arm ch false timeout) s = .next t →
    exec (.tick dt) t = .next u →
      ((∃ v, exec (.taskr ch false) u = .next v) ↔ timeout ≤ dt)

/-- Scenario E (42_async_read.md R151, 70_reset_and_hazards.md R256): CANCEL of an Armed read, then ARM, succeeds with a
fresh timeout and leaves the count of clock requests as it was. -/
def Obligations.CancelThenArmSucceeds : Prop :=
  ∀ (s : State) (ch : Nat) (c : Channel) (timeout : Nat), Sound s → Ready s ch c → c.readState = .armed →
    ∃ t u c', exec (.cancel ch false) s = .next t ∧ exec (.arm ch false timeout) t = .next u ∧
      u.chans[ch]? = some c' ∧ c'.readState = .armed ∧ c'.readTimeout = timeout ∧
      c'.rt = ⟨true, .ticks (s.shared.now + timeout)⟩ ∧ c'.ier = c.ier ∧ c'.rq = c.rq ∧
      u.shared.hfCount = s.shared.hfCount ∧ u.shared.events = s.shared.events

/-! ### The interrupt multiplexer -/

/-- 43_interrupt_mux.md R174: one invocation gives the outcome the table states for the state at entry, on that channel,
and nothing else changes, whatever operation is in flight. The slots it wakes are registered. -/
def Obligations.IrqFollowsOutcomeTable : Prop :=
  ∀ (s : State) (ch : Nat) (c : Channel), Live s ch c → (transmitWakes c = true → c.wt.registered = true) →
    (c.ier.rxneie = true → c.isr.rxne = true → c.rt.registered = true) →
      exec (.irq ch) s =
        .next (s.put ch ⟨receiveOutcome s.shared.now (transmitOutcome s.shared.now c), s.shared⟩)

/-- IRQ that wakes an unregistered slot stops the machine with SCHED_BAD_SLOT, and its earlier sub-steps are discarded
(43_interrupt_mux.md R172, 60_exceptions.md R207). -/
def Obligations.IrqFaultsOnUnregisteredSlot : Prop :=
  ∀ (s : State) (ch : Nat) (c : Channel), Live s ch c →
    ((transmitWakes c = true ∧ c.wt.registered = false) ∨
      (c.ier.rxneie = true ∧ c.isr.rxne = true ∧ c.rt.registered = false)) →
      exec (.irq ch) s = .fault (.raised .schedBadSlot { s with fault := some .schedBadSlot })

/-- With the request line low an invocation changes nothing (43_interrupt_mux.md R170, 10_state.md R35). -/
def Obligations.SpuriousIrqChangesNothing : Prop :=
  ∀ (s : State) (ch : Nat) (c : Channel), Live s ch c →
    ((c.ier.txeie && c.isr.txe) || (c.ier.tcie && c.isr.tc) || (c.ier.rxneie && c.isr.rxne)) = false →
      exec (.irq ch) s = .next s

/-- What interrupt context never touches (60_exceptions.md R220, 10_state.md R31): the shared state (power gate, events,
responses, time), the operation in flight, and of the channel everything but the enables, flags, TDR, queues, slots and
the transmit log. -/
def Obligations.MultiplexerFrame : Prop :=
  ∀ (s t : State) (ch : Nat) (c : Channel), s.chans[ch]? = some c → exec (.irq ch) s = .next t →
    t.shared = s.shared ∧ t.coop = s.coop ∧ t.fault = s.fault ∧ t.stream = s.stream ∧
      (∀ ch', ch' ≠ ch → t.chans[ch']? = s.chans[ch']?) ∧
      ∃ c', t.chans[ch]? = some c' ∧ c'.initialized = c.initialized ∧ c'.writeState = c.writeState ∧
        c'.readState = c.readState ∧ c'.wqAttached = c.wqAttached ∧ c'.rqAttached = c.rqAttached ∧
        c'.readTimeout = c.readTimeout ∧ c'.cbEn = c.cbEn ∧ c'.cbCtx = c.cbCtx ∧ c'.lp = c.lp ∧ c'.rdr = c.rdr ∧
        c'.tsrBusy = c.tsrBusy ∧ c'.tsr = c.tsr ∧ c'.linelog = c.linelog ∧
        c'.wt.registered = c.wt.registered ∧ c'.rt.registered = c.rt.registered

/-- 60_exceptions.md R214: IRQ steps of different channels commute. -/
def Obligations.InterruptsOfChannelsCommute : Prop :=
  ∀ (s t u : State) (a b : Nat), a ≠ b → exec (.irq a) s = .next t → exec (.irq b) t = .next u →
    ∃ t', exec (.irq b) s = .next t' ∧ exec (.irq a) t' = .next u

/-! ### The environment -/

/-- 44_environment.md R181, with the condition under which it has no step. -/
def Obligations.HwloadMovesTheWaitingByte : Prop :=
  ∀ (s : State) (ch : Nat) (c : Channel), Live s ch c →
    (c.initialized = true → c.isr.txe = false → c.tsrBusy = false →
      exec (.hwload ch) s = .next (s.put ch
        ⟨{ c with tsr := c.tdr, tsrBusy := true, isr := { c.isr with txe := true } }, s.shared⟩)) ∧
    (¬(c.initialized = true ∧ c.isr.txe = false ∧ c.tsrBusy = false) →
      exec (.hwload ch) s = .refused (.notEnabled .ne5))

/-- 44_environment.md R182, with the condition under which it has no step. -/
def Obligations.HwdoneSendsTheByte : Prop :=
  ∀ (s : State) (ch : Nat) (c : Channel), Live s ch c →
    (c.initialized = true → c.tsrBusy = true →
      exec (.hwdone ch) s = .next (s.put ch
        ⟨{ c with
            linelog := c.linelog ++ [c.tsr]
            tsrBusy := false
            isr := { c.isr with tc := if c.isr.txe then true else c.isr.tc } }, s.shared⟩)) ∧
    (¬(c.initialized = true ∧ c.tsrBusy = true) → exec (.hwdone ch) s = .refused (.notEnabled .ne6))

/-- 44_environment.md R183, overrun included, with the condition under which it has no step. -/
def Obligations.HwrxHoldsOrLosesTheByte : Prop :=
  ∀ (s : State) (ch : Nat) (c : Channel) (b : Byte), Live s ch c →
    (c.initialized = true → c.isr.rxne = false →
      exec (.hwrx ch b) s = .next (s.put ch ⟨{ c with rdr := b, isr := { c.isr with rxne := true } }, s.shared⟩)) ∧
    (c.initialized = true → c.isr.rxne = true → exec (.hwrx ch b) s = .next s) ∧
    (c.initialized = false → exec (.hwrx ch b) s = .refused (.notEnabled .ne7))

/-- 44_environment.md R184: time advances, and nothing else changes, also while an operation is in flight. -/
def Obligations.TickAdvancesTime : Prop :=
  ∀ (s : State) (dt : Nat), s.fault = none →
    exec (.tick dt) s = .next { s with shared := { s.shared with now := s.shared.now + dt } }

/-! ### Micro-steps: COSTEP and the P bit -/

/-- COSTEP runs ENQUEUE's `ph1` and `ph2` as 41_async_write.md R140 writes them (44_environment.md R185). That the locals
hold the count offered beside `k` is the model's reading (DEDUCED, log 7). -/
def Obligations.CostepRunsEnqueue : Prop :=
  ∀ (s : State) (ch k n : Nat) (c : Channel),
    (InFlight s ch c (.enqueuePh1 k n) → c.writeState = .idle → c.wt.registered = false →
      exec .costep s = .next { s.put ch
        ⟨{ c with writeState := .draining, wt := ⟨true, .inf⟩ },
          { s.shared with
            hfCount := if c.lp then s.shared.hfCount else s.shared.hfCount + 1
            dsCount := if c.lp then s.shared.dsCount + 1 else s.shared.dsCount
            pglog := s.shared.pglog ++ [if c.lp then .supDs else .enHf] }⟩ with
        coop := some ⟨ch, .enqueuePh2 k n⟩ }) ∧
    (InFlight s ch c (.enqueuePh1 k n) → c.writeState = .draining → c.wt.registered = true →
      exec .costep s = .next { s.put ch ⟨{ c with wt := ⟨true, .inf⟩ }, s.shared⟩ with
        coop := some ⟨ch, .enqueuePh2 k n⟩ }) ∧
    (InFlight s ch c (.enqueuePh2 k n) →
      exec .costep s = .next { s.put ch
        ⟨{ c with ier := { c.ier with txeie := true } },
          { s.shared with
            resp := s.shared.resp ++ [⟨.enqueue, ch, if k = n then .ok else .queueFull, k, []⟩] }⟩ with
        coop := none })

/-- COSTEP runs ARM's and CANCEL's `ph1` and `ph2` (42_async_read.md R150, R151; 44_environment.md R185); each update of
an enable bit is a micro-step of its own (20_memory.md R79, R80). -/
def Obligations.CostepRunsArmAndCancel : Prop :=
  ∀ (s : State) (ch : Nat) (c : Channel),
    (InFlight s ch c .armPh1 →
      exec .costep s = .next { s.put ch ⟨{ c with ier := { c.ier with rxneie := true } }, s.shared⟩ with
        coop := some ⟨ch, .armPh2⟩ }) ∧
    (InFlight s ch c .armPh2 →
      exec .costep s = .next { s.put ch
        ⟨{ c with readState := .armed },
          { s.shared with
            hfCount := s.shared.hfCount + 1
            pglog := s.shared.pglog ++ [.enHf]
            resp := s.shared.resp ++ [⟨.arm, ch, .ok, 1, []⟩] }⟩ with
        coop := none }) ∧
    (InFlight s ch c .cancelPh1 →
      exec .costep s = .next { s.put ch ⟨{ c with ier := { c.ier with rxneie := false } }, s.shared⟩ with
        coop := some ⟨ch, .cancelPh2⟩ }) ∧
    (InFlight s ch c .cancelPh2 → c.rt.registered = true → s.shared.hfCount ≠ 0 →
      ∃ (d : Due) (n : Nat), exec .costep s = .next { s.put ch
        ⟨{ c with rt := ⟨false, d⟩ },
          { s.shared with
            hfCount := s.shared.hfCount - 1
            pglog := s.shared.pglog ++ [.disHf]
            resp := s.shared.resp ++ [⟨.cancel, ch, .ok, 0, []⟩]
            draws := n }⟩ with
        coop := none })

/-- COSTEP runs the `ph1` of TASKW and of TASKR, whose event kind is decided by the queue then (41_async_write.md R141,
42_async_read.md R153, 44_environment.md R185). -/
def Obligations.CostepRunsTasks : Prop :=
  ∀ (s : State) (ch : Nat) (c : Channel),
    (InFlight s ch c .taskwPh1 → c.wt.registered = true →
        (if c.lp then s.shared.dsCount else s.shared.hfCount) ≠ 0 →
      ∃ (d : Due) (n : Nat), exec .costep s = .next { s.put ch
        ⟨{ c with wt := ⟨false, d⟩ },
          { s.shared with
            hfCount := if c.lp then s.shared.hfCount else s.shared.hfCount - 1
            dsCount := if c.lp then s.shared.dsCount - 1 else s.shared.dsCount
            pglog := s.shared.pglog ++ [if c.lp then .alwDs else .disHf]
            events := s.shared.events ++ (if c.cbEn then [⟨ch, .writeDone, c.cbCtx⟩] else [])
            draws := n }⟩ with
        coop := none }) ∧
    (InFlight s ch c .taskrPh1 →
      exec .costep s = .next { s.put ch
        ⟨c, { s.shared with
          events := s.shared.events ++
            (if c.cbEn then [⟨ch, if c.rq.data = [] then .readTimeout else .readData, c.cbCtx⟩] else []) }⟩ with
        coop := none })

/-- With P = 1 the operation's `ph0` alone runs and `coop` names what comes next (30_encoding.md R102). ENQUEUE's locals
hold the count offered too (DEDUCED, log 7). -/
def Obligations.PreemptibleStartRunsFirstMicroStep : Prop :=
  ∀ (s : State) (ch : Nat) (c : Channel), Ready s ch c →
    (∀ bs k, c.initialized = true → c.wqAttached = true → k = min bs.length (c.wq.cap - c.wq.data.length) → 1 ≤ k →
      exec (.enqueue ch true bs) s = .next { s.put ch
        ⟨{ c with wq := { c.wq with data := c.wq.data ++ bs.take k } }, s.shared⟩ with
        coop := some ⟨ch, .enqueuePh1 k bs.length⟩ }) ∧
    (∀ timeout, c.initialized = true → c.rqAttached = true → c.readState = .idle → c.rt.registered = false →
      exec (.arm ch true timeout) s = .next { s.put ch
        ⟨{ c with readTimeout := timeout, rt := ⟨true, .ticks (s.shared.now + timeout)⟩ }, s.shared⟩ with
        coop := some ⟨ch, .armPh1⟩ }) ∧
    (c.readState = .armed →
      exec (.cancel ch true) s = .next { s.put ch ⟨{ c with readState := .idle }, s.shared⟩ with
        coop := some ⟨ch, .cancelPh1⟩ }) ∧
    (c.wt.registered = true → c.wt.due.reached s.shared.now = true →
      exec (.taskw ch true) s = .next { s.put ch ⟨{ c with writeState := .idle }, s.shared⟩ with
        coop := some ⟨ch, .taskwPh1⟩ }) ∧
    (c.rt.registered = true → c.rt.due.reached s.shared.now = true →
      exec (.taskr ch true) s = .next { s.put ch
        ⟨{ c with rt := ⟨true, .ticks (s.shared.now + c.readTimeout)⟩ }, s.shared⟩ with
        coop := some ⟨ch, .taskrPh1⟩ })

/-- 30_encoding.md R102: every instruction is its preemptible form, followed, where it has P = 0, by COSTEPs to the end;
faults and refusals on the way included (60_exceptions.md R207; DEDUCED, log 8). With P = 0 nothing is left in flight. -/
def Obligations.WholeOperationIsItsMicroSteps : Prop :=
  ∀ (i : Instr) (s : State), i.preemptible ≠ i →
    exec i s = (match exec i.preemptible s with
      | .next t => costepsToEnd 2 t
      | .fault r => .fault r
      | .refused r => .refused r) ∧
    ∀ t, exec i s = .next t → t.coop = none

/-! ### Outcomes -/

/-- 30_encoding.md R118: a legal stimulus has no step exactly in the cases NE1 to NE8, and the machine names one that
holds. The operation in flight, if any, is on a channel of the machine. -/
def Obligations.NotEnabledExactlyAsListed : Prop :=
  ∀ (s : State) (i : Instr), (∀ co, s.coop = some co → co.ch < s.nch) → i.wf s.nch = true →
    ((∃ r, exec i s = .refused r) ↔ ∃ why : NotEnabled, why.holds s i) ∧
    ∀ r, exec i s = .refused r → ∃ why : NotEnabled, r = .notEnabled why ∧ why.holds s i

/-- 60_exceptions.md R206, columns "raised by" and "cause", and R52: an instruction faults with a reason exactly when the
table gives a cause for it, and the fault sets the field `fault`. -/
def Obligations.FaultsHaveTheirListedCauses : Prop :=
  ∀ (s : State) (i : Instr) (r : FaultReason),
    ((∃ t, exec i s = .fault (.raised r t)) ↔ r.causedBy s i) ∧
    ∀ t, exec i s = .fault (.raised r t) → s.fault = none ∧ t.fault = some r

/-- 60_exceptions.md R207: the state of a fault is the state before the faulting micro-step with `fault` set. Either the
first micro-step faults; or, with P = 0, it has run and the second faults; or both have run and the third faults. The
micro-steps are those P = 1 and COSTEP run, so their effects stand; that `coop` is then what they would have left is the
model's reading of R102 and R207 together (DEDUCED, log 8). -/
def Obligations.FaultKeepsTheStateBefore : Prop :=
  ∀ (s t : State) (i : Instr) (r : FaultReason), exec i s = .fault (.raised r t) →
    (exec i.preemptible s = .fault (.raised r t) ∧ t = { s with fault := some r }) ∨
    (i.preemptible ≠ i ∧ ∃ u, exec i.preemptible s = .next u ∧
      ((exec .costep u = .fault (.raised r t) ∧ t = { u with fault := some r }) ∨
        ∃ v, exec .costep u = .next v ∧ exec .costep v = .fault (.raised r t) ∧ t = { v with fault := some r }))

/-- 10_state.md R52, 70_reset_and_hazards.md R244, 30_encoding.md R118 (NE8): nothing is enabled in a faulted machine. That
the refusal is named NE8 also where another condition holds, or no such channel exists, is the model's choice (DESIGN
CHOICE, log 6 and log 12), and that the faulted machine is a state at all is its way of stopping (log 5). -/
def Obligations.FaultedMachineTakesNoStep : Prop :=
  ∀ (s : State) (r : FaultReason), s.fault = some r →
    (∀ i, exec i s = .refused (.notEnabled .ne8)) ∧ ∀ t, step s ≠ .next t

/-! ### Reset and the invariants -/

/-- 10_state.md R54: the values the spec states for reset, for any parameters; of the unspecified ones nothing is said. -/
def Obligations.ResetValues : Prop :=
  ∀ p : Params,
    (State.resetWith p).nch = p.nch ∧
    (∀ (ch : Nat) (c : Channel), (State.resetWith p).chans[ch]? = some c →
      c.initialized = false ∧ c.writeState = .idle ∧ c.readState = .idle ∧ c.wqAttached = false ∧
        c.rqAttached = false ∧ c.cbEn = false ∧ c.ier = ⟨false, false, false⟩ ∧ c.tsrBusy = false ∧
        c.wq.data = [] ∧ c.rq.data = [] ∧ c.wt.registered = false ∧ c.rt.registered = false ∧ c.txlog = [] ∧
        c.linelog = [] ∧ p.caps[ch]? = some ⟨c.wq.cap, c.rq.cap⟩) ∧
    (State.resetWith p).shared.now = 0 ∧ (State.resetWith p).shared.hfCount = 0 ∧
    (State.resetWith p).shared.dsCount = 0 ∧ (State.resetWith p).shared.resp = [] ∧
    (State.resetWith p).shared.events = [] ∧ (State.resetWith p).shared.pglog = [] ∧
    (State.resetWith p).coop = none ∧ (State.resetWith p).fault = none

/-- The invariants hold in every reset state, whatever its unspecified values (10_state.md R30, R54). -/
def Obligations.ResetIsOrderly : Prop :=
  ∀ (p : Params) (s : State), IsReset p s → Orderly s

/-- Every step, the hazard of 70_reset_and_hazards.md R251 included, keeps the invariant `Sound`: I-a, the receive half of
I-b, the exact power-gate counts of I-c with the windows of R258, and the transceiver's contract (10_state.md R30,
44_environment.md R180). -/
def Obligations.StepKeepsSound : Prop :=
  ∀ s t : State, Sound s → step s = .next t → Sound t

/-- Every step but the hazard's keeps the invariant `Orderly`, which adds the transmit half of I-b with its windows
(10_state.md R30, 70_reset_and_hazards.md R251, R258). -/
def Obligations.StepKeepsOrderly : Prop :=
  ∀ s t : State, Orderly s → (∀ i u, s.fetch = .ok (i, u) → ¬Hazard u i) → step s = .next t → Orderly t

/-- 10_state.md R30: I-a, I-b and I-c in every state reached from reset, the hazard avoided, with no cooperative operation
in flight. -/
def Obligations.SourceInvariantsHold : Prop :=
  ∀ (p : Params) (s : State), Reached p s → s.coop = none →
    (∀ (ch : Nat) (c : Channel), s.chans[ch]? = some c →
      (c.wt.registered = true ↔ c.writeState = .draining) ∧
      (c.rt.registered = true ↔ c.readState = .armed) ∧
      (c.ier.txeie = true ∨ c.ier.tcie = true → c.writeState = .draining) ∧
      (c.writeState = .draining →
        c.ier.txeie = true ∨ c.ier.tcie = true ∨ c.wt.due.reached s.shared.now = true) ∧
      (c.ier.rxneie = true ↔ c.readState = .armed)) ∧
    s.shared.hfCount = s.chans.countP (fun c => c.readState == .armed) +
      s.chans.countP (fun c => c.writeState == .draining && !c.lp) ∧
    s.shared.dsCount = s.chans.countP (fun c => c.writeState == .draining && c.lp)

/-- While the hazard is avoided the only faults are a second INIT and a second ATTACH (60_exceptions.md R206, last
paragraph). -/
def Obligations.OrderlyMachineDoesNotFault : Prop :=
  ∀ (s t : State) (i : Instr) (r : FaultReason), Orderly s → exec i s = .fault (.raised r t) →
    r = .reinit ∨ r = .reattach

/-- The hazard (70_reset_and_hazards.md R251): in the window, the interrupt's `run_now` is not overwritten, the operation
still ends, TASKW is enabled, and it reports WriteDone and releases the power gate while the bytes are still queued and
TXEIE is set; the channel may be Armed at the same time, with a byte received or not. -/
def Obligations.HazardCompletesTheWriteEarly : Prop :=
  ∀ (s : State) (ch k n : Nat) (c : Channel), InFlight s ch c (.enqueuePh2 k n) → c.ier.txeie = false →
    c.ier.tcie = true → c.isr.tc = true → c.wt.registered = true →
    (c.ier.rxneie = true → c.isr.rxne = true → c.rt.registered = true) → c.wq.data ≠ [] → c.cbEn = true →
    (if c.lp then s.shared.dsCount else s.shared.hfCount) ≠ 0 →
      ∃ t u v c', exec (.irq ch) s = .next t ∧ exec .costep t = .next u ∧ exec (.taskw ch false) u = .next v ∧
        v.chans[ch]? = some c' ∧ c'.writeState = .idle ∧ c'.wt.registered = false ∧ c'.ier.txeie = true ∧
        c'.ier.rxneie = c.ier.rxneie ∧ c'.wq.data = c.wq.data ∧
        v.shared.events = s.shared.events ++ [⟨ch, .writeDone, c.cbCtx⟩] ∧
        v.shared.pglog = s.shared.pglog ++ [if c.lp then .alwDs else .disHf]

/-! ### Rules of the whole machine -/

/-- 10_state.md R20, 60_exceptions.md R234: a step touches the control block of the channel it names and of no other;
COSTEP names the channel of the operation in flight; TICK touches only the time. -/
def Obligations.StepsTouchOneChannel : Prop :=
  ∀ (s t : State) (i : Instr), exec i s = .next t →
    t.nch = s.nch ∧ t.stream = s.stream ∧ t.fault = s.fault ∧
    (∀ ch, i.channel? = some ch → ∀ ch', ch' ≠ ch → t.chans[ch']? = s.chans[ch']?) ∧
    (i = .costep → ∀ ch p, s.coop = some ⟨ch, p⟩ → ∀ ch', ch' ≠ ch → t.chans[ch']? = s.chans[ch']?) ∧
    (∀ dt, i = .tick dt → t.chans = s.chans ∧ t.coop = s.coop ∧
      t.shared = { s.shared with now := s.shared.now + dt })

/-- 10_state.md R22, R23, R32: the sub-states change only by the operations named. -/
def Obligations.SubStatesChangeOnlyAsDrawn : Prop :=
  ∀ (s t : State) (i : Instr) (ch : Nat) (c c' : Channel), exec i s = .next t → s.chans[ch]? = some c →
    t.chans[ch]? = some c' →
    (c.writeState = .idle → c'.writeState = .draining →
      (∃ bs, i = .enqueue ch false bs) ∨ (i = .costep ∧ ∃ k n, s.coop = some ⟨ch, .enqueuePh1 k n⟩)) ∧
    (c.writeState = .draining → c'.writeState = .idle → ∃ p, i = .taskw ch p) ∧
    (c.readState = .idle → c'.readState = .armed →
      (∃ timeout, i = .arm ch false timeout) ∨ (i = .costep ∧ s.coop = some ⟨ch, .armPh2⟩)) ∧
    (c.readState = .armed → c'.readState = .idle → ∃ p, i = .cancel ch p)

/-- The remaining writers of 10_state.md R31: `initialized` and `lp` by INIT, the attachments by ATTACH, the callback by
SETCB, the timeout by ARM; and a channel once initialised stays so (R21). -/
def Obligations.ControlBlockWriters : Prop :=
  ∀ (s t : State) (i : Instr) (ch : Nat) (c c' : Channel), exec i s = .next t → s.chans[ch]? = some c →
    t.chans[ch]? = some c' →
    (c'.initialized ≠ c.initialized → c'.initialized = true ∧ ∃ lp, i = .init ch lp) ∧
    (c'.lp ≠ c.lp → ∃ lp, i = .init ch lp) ∧
    (c'.wqAttached ≠ c.wqAttached ∨ c'.rqAttached ≠ c.rqAttached → ∃ w r, i = .attach ch w r) ∧
    (c'.cbEn ≠ c.cbEn ∨ c'.cbCtx ≠ c.cbCtx → ∃ en ctx, i = .setcb ch en ctx) ∧
    (c'.readTimeout ≠ c.readTimeout → ∃ p timeout, i = .arm ch p timeout)

/-- 10_state.md R34: who sets and who clears each interrupt enable bit. -/
def Obligations.EnableBitWriters : Prop :=
  ∀ (s t : State) (i : Instr) (ch : Nat) (c c' : Channel), exec i s = .next t → s.chans[ch]? = some c →
    t.chans[ch]? = some c' →
    (c.ier.txeie = false → c'.ier.txeie = true →
      (∃ bs, i = .enqueue ch false bs) ∨ (i = .costep ∧ ∃ k n, s.coop = some ⟨ch, .enqueuePh2 k n⟩)) ∧
    (c.ier.txeie = true → c'.ier.txeie = false →
      (i = .irq ch ∧ c.isr.txe = true ∧ c.wq.data = []) ∨ ∃ lp, i = .init ch lp) ∧
    (c.ier.tcie = false → c'.ier.tcie = true →
      i = .irq ch ∧ c.ier.txeie = true ∧ c.isr.txe = true ∧ c.wq.data = []) ∧
    (c.ier.tcie = true → c'.ier.tcie = false → (i = .irq ch ∧ c.isr.tc = true) ∨ ∃ lp, i = .init ch lp) ∧
    (c.ier.rxneie = false → c'.ier.rxneie = true →
      (∃ timeout, i = .arm ch false timeout) ∨ (i = .costep ∧ s.coop = some ⟨ch, .armPh1⟩)) ∧
    (c.ier.rxneie = true → c'.ier.rxneie = false →
      i = .cancel ch false ∨ (i = .costep ∧ s.coop = some ⟨ch, .cancelPh1⟩) ∨ ∃ lp, i = .init ch lp)

/-- 00_scope.md R18, 10_state.md R46: the output traces only grow and time never decreases. -/
def Obligations.TracesOnlyGrow : Prop :=
  ∀ (s t : State) (i : Instr), exec i s = .next t →
    s.shared.now ≤ t.shared.now ∧ s.shared.resp <+: t.shared.resp ∧ s.shared.events <+: t.shared.events ∧
      s.shared.pglog <+: t.shared.pglog ∧
      ∀ (ch : Nat) (c c' : Channel), s.chans[ch]? = some c → t.chans[ch]? = some c' → c.txlog <+: c'.txlog ∧ c.linelog <+: c'.linelog

/-- P1 (41_async_write.md R142): over any run, the bytes written to the transmit data register followed by those still
queued are what they were, followed by the accepted prefixes of all ENQUEUEs in call order. From reset, `txlog` is
therefore a prefix of the concatenation of the accepted prefixes. -/
def Obligations.AcceptedBytesAreSentInOrder : Prop :=
  (∀ (is : List Instr) (s t : State) (ch : Nat), execAll is s = some t →
    acceptedSoFar t ch = acceptedSoFar s ch ++ acceptedOver is s ch) ∧
  (∀ (p : Params) (is : List Instr) (s t : State) (ch : Nat) (c : Channel), IsReset p s → execAll is s = some t →
    t.chans[ch]? = some c → c.txlog <+: acceptedOver is s ch)

/-- 70_reset_and_hazards.md R242: no outcome depends on a value that is unspecified. Two states in which the same is
specified give outcomes in which the same is specified, whatever their unspecified values (reset values among them, log
3 and log 4). -/
def Obligations.OutcomesIgnoreUnspecifiedValues : Prop :=
  ∀ (i : Instr) (s t : State), Sound s → Sound t → s.known = t.known →
    knownResult (exec i s) = knownResult (exec i t)
end

