-- ==== Sys2Proof/Laws/Encoding.lean ====
section
/-!
SUPPORT. The fields of a word the encoder writes, and the lengths of payloads (30_encoding.md R101, R105, R117).
-/

namespace Sys2Proof

/-- Every bit of a stimulus word, by the field it lies in (30_encoding.md R101). -/
theorem getLsbD_stimulusWord (op : Op) (ch : Nat) (p : Bool) (arg : BitVec 23) (i : Nat) :
    (stimulusWord op ch p arg).getLsbD i =
      if i < 23 then arg.getLsbD i
      else if i < 24 then p
      else if i < 28 then (BitVec.ofNat 4 ch).getLsbD (i - 24)
      else op.code.getLsbD (i - 28) := by
  have h1 : i - 23 - 1 = i - 24 := by omega
  have h2 : i - 24 - 4 = i - 28 := by omega
  have h3 : (i - 23 < 1) = (i - 23 = 0) := by simp
  simp only [stimulusWord, BitVec.getLsbD_append, h1, h2, BitVec.getLsbD_ofBool, h3]
  by_cases ha : i < 23
  · simp only [ha, if_true]
  · by_cases hb : i < 24
    · simp [ha, hb, show i - 23 = 0 by omega]
    · by_cases hc : i < 28
      · simp [ha, hb, hc, show ¬(i - 23 = 0) by omega, show i - 24 < 4 by omega]
      · simp [ha, hb, hc, show ¬(i - 23 = 0) by omega, show ¬(i - 24 < 4) by omega]

@[simp] theorem opField_stimulusWord (op : Op) (ch : Nat) (p : Bool) (arg : BitVec 23) :
    opField (stimulusWord op ch p arg) = op.code := by
  apply BitVec.eq_of_getLsbD_eq
  intro i hi
  rw [opField, BitVec.getLsbD_extractLsb', getLsbD_stimulusWord]
  simp only [hi, decide_true, Bool.true_and, show ¬(28 + i < 23) by omega, show ¬(28 + i < 24) by omega,
    show ¬(28 + i < 28) by omega, if_false, Nat.add_sub_cancel_left]

@[simp] theorem pField_stimulusWord (op : Op) (ch : Nat) (p : Bool) (arg : BitVec 23) :
    pField (stimulusWord op ch p arg) = p := by
  rw [pField, getLsbD_stimulusWord]
  rfl

@[simp] theorem argField_stimulusWord (op : Op) (ch : Nat) (p : Bool) (arg : BitVec 23) :
    argField (stimulusWord op ch p arg) = arg := by
  apply BitVec.eq_of_getLsbD_eq
  intro i hi
  rw [argField, BitVec.getLsbD_extractLsb', getLsbD_stimulusWord]
  simp only [hi, decide_true, Bool.true_and, Nat.zero_add, if_true]

/-- A channel number the field can hold is read back (30_encoding.md R103). -/
theorem chField_stimulusWord (op : Op) (ch : Nat) (p : Bool) (arg : BitVec 23) (h : ch < 16) :
    chField (stimulusWord op ch p arg) = ch := by
  have hf : (stimulusWord op ch p arg).extractLsb' 24 4 = BitVec.ofNat 4 ch := by
    apply BitVec.eq_of_getLsbD_eq
    intro i hi
    rw [BitVec.getLsbD_extractLsb', getLsbD_stimulusWord]
    simp only [hi, decide_true, Bool.true_and, show ¬(24 + i < 23) by omega, show ¬(24 + i < 24) by omega,
      show 24 + i < 28 by omega, if_false, if_true, Nat.add_sub_cancel_left]
  rw [chField, hf, BitVec.toNat_ofNat]
  exact Nat.mod_eq_of_lt h

/-- The count field of an ENQUEUE word (30_encoding.md R105). -/
theorem countField_stimulusWord (op : Op) (ch : Nat) (p : Bool) (n : Nat) (h : n ≤ 255) :
    ((stimulusWord op ch p (BitVec.ofNat 23 n)).extractLsb' 0 8).toNat = n := by
  have hf : (stimulusWord op ch p (BitVec.ofNat 23 n)).extractLsb' 0 8 = BitVec.ofNat 8 n := by
    apply BitVec.eq_of_getLsbD_eq
    intro i hi
    rw [BitVec.getLsbD_extractLsb', getLsbD_stimulusWord]
    simp only [hi, decide_true, Bool.true_and, Nat.zero_add, show i < 23 by omega, if_true, BitVec.getLsbD_ofNat]
  rw [hf, BitVec.toNat_ofNat]
  omega

@[simp] theorem packBytes_length : ∀ bs : List Byte, (packBytes bs).length = payloadWords bs.length
  | [] | [_] | [_, _] | [_, _, _] => by simp [packBytes, payloadWords]
  | _ :: _ :: _ :: _ :: rest => by
    simp only [packBytes, List.length_cons, packBytes_length rest, payloadWords]
    omega

@[simp] theorem unpackBytes_length (ws : List Word) : (unpackBytes ws).length = 4 * ws.length := by
  induction ws with
  | nil => rfl
  | cons w ws ih =>
    simp only [unpackBytes, List.length_append, ih, List.length_cons, wordBytes, List.length_nil]
    omega

end Sys2Proof
end

