-- ==== Sys2Proof/Laws/State.lean ====
section
/-!
SUPPORT. The small lemmas of the state's updates: one per field per named update, true by `rfl`, so that no later proof
unfolds a record update.
-/

namespace Sys2Proof.Machine

/-! ### `State.put` -/

@[simp] theorem State.put_chans (s : State) (ch : Nat) (f : Focus) : (s.put ch f).chans = s.chans.set ch f.c := rfl
@[simp] theorem State.put_shared (s : State) (ch : Nat) (f : Focus) : (s.put ch f).shared = f.g := rfl
@[simp] theorem State.put_coop (s : State) (ch : Nat) (f : Focus) : (s.put ch f).coop = s.coop := rfl
@[simp] theorem State.put_fault (s : State) (ch : Nat) (f : Focus) : (s.put ch f).fault = s.fault := rfl
@[simp] theorem State.put_stream (s : State) (ch : Nat) (f : Focus) : (s.put ch f).stream = s.stream := rfl

@[simp] theorem State.put_nch (s : State) (ch : Nat) (f : Focus) : (s.put ch f).nch = s.nch := by
  simp [State.nch]

/-- Reading the channel that was put. -/
theorem State.put_same (s : State) (ch : Nat) (f : Focus) (h : ch < s.chans.length) :
    (s.put ch f).chans[ch]? = some f.c := by
  simp [h]

/-- Reading any other channel. -/
theorem State.put_other (s : State) (ch ch' : Nat) (f : Focus) (h : ch ≠ ch') :
    (s.put ch f).chans[ch']? = s.chans[ch']? := by
  simp [List.getElem?_set_ne h]

/-! ### `State.pushWords` -/

@[simp] theorem State.pushWords_chans (s : State) (ws : List Word) : (s.pushWords ws).chans = s.chans := rfl
@[simp] theorem State.pushWords_shared (s : State) (ws : List Word) : (s.pushWords ws).shared = s.shared := rfl
@[simp] theorem State.pushWords_coop (s : State) (ws : List Word) : (s.pushWords ws).coop = s.coop := rfl
@[simp] theorem State.pushWords_fault (s : State) (ws : List Word) : (s.pushWords ws).fault = s.fault := rfl
@[simp] theorem State.pushWords_stream (s : State) (ws : List Word) : (s.pushWords ws).stream = ws ++ s.stream := rfl

/-! ### `Channel.setTxeie` -/

@[simp] theorem Channel.setTxeie_initialized (c : Channel) (b : Bool) : (c.setTxeie b).initialized = c.initialized := rfl
@[simp] theorem Channel.setTxeie_writeState (c : Channel) (b : Bool) : (c.setTxeie b).writeState = c.writeState := rfl
@[simp] theorem Channel.setTxeie_readState (c : Channel) (b : Bool) : (c.setTxeie b).readState = c.readState := rfl
@[simp] theorem Channel.setTxeie_wqAttached (c : Channel) (b : Bool) : (c.setTxeie b).wqAttached = c.wqAttached := rfl
@[simp] theorem Channel.setTxeie_rqAttached (c : Channel) (b : Bool) : (c.setTxeie b).rqAttached = c.rqAttached := rfl
@[simp] theorem Channel.setTxeie_readTimeout (c : Channel) (b : Bool) : (c.setTxeie b).readTimeout = c.readTimeout := rfl
@[simp] theorem Channel.setTxeie_cbEn (c : Channel) (b : Bool) : (c.setTxeie b).cbEn = c.cbEn := rfl
@[simp] theorem Channel.setTxeie_cbCtx (c : Channel) (b : Bool) : (c.setTxeie b).cbCtx = c.cbCtx := rfl
@[simp] theorem Channel.setTxeie_lp (c : Channel) (b : Bool) : (c.setTxeie b).lp = c.lp := rfl
@[simp] theorem Channel.setTxeie_ier (c : Channel) (b : Bool) : (c.setTxeie b).ier = { c.ier with txeie := b } := rfl
@[simp] theorem Channel.setTxeie_isr (c : Channel) (b : Bool) : (c.setTxeie b).isr = c.isr := rfl
@[simp] theorem Channel.setTxeie_tdr (c : Channel) (b : Bool) : (c.setTxeie b).tdr = c.tdr := rfl
@[simp] theorem Channel.setTxeie_rdr (c : Channel) (b : Bool) : (c.setTxeie b).rdr = c.rdr := rfl
@[simp] theorem Channel.setTxeie_tsrBusy (c : Channel) (b : Bool) : (c.setTxeie b).tsrBusy = c.tsrBusy := rfl
@[simp] theorem Channel.setTxeie_tsr (c : Channel) (b : Bool) : (c.setTxeie b).tsr = c.tsr := rfl
@[simp] theorem Channel.setTxeie_wq (c : Channel) (b : Bool) : (c.setTxeie b).wq = c.wq := rfl
@[simp] theorem Channel.setTxeie_rq (c : Channel) (b : Bool) : (c.setTxeie b).rq = c.rq := rfl
@[simp] theorem Channel.setTxeie_wt (c : Channel) (b : Bool) : (c.setTxeie b).wt = c.wt := rfl
@[simp] theorem Channel.setTxeie_rt (c : Channel) (b : Bool) : (c.setTxeie b).rt = c.rt := rfl
@[simp] theorem Channel.setTxeie_txlog (c : Channel) (b : Bool) : (c.setTxeie b).txlog = c.txlog := rfl
@[simp] theorem Channel.setTxeie_linelog (c : Channel) (b : Bool) : (c.setTxeie b).linelog = c.linelog := rfl

/-! ### `Channel.setTcie` -/

@[simp] theorem Channel.setTcie_initialized (c : Channel) (b : Bool) : (c.setTcie b).initialized = c.initialized := rfl
@[simp] theorem Channel.setTcie_writeState (c : Channel) (b : Bool) : (c.setTcie b).writeState = c.writeState := rfl
@[simp] theorem Channel.setTcie_readState (c : Channel) (b : Bool) : (c.setTcie b).readState = c.readState := rfl
@[simp] theorem Channel.setTcie_wqAttached (c : Channel) (b : Bool) : (c.setTcie b).wqAttached = c.wqAttached := rfl
@[simp] theorem Channel.setTcie_rqAttached (c : Channel) (b : Bool) : (c.setTcie b).rqAttached = c.rqAttached := rfl
@[simp] theorem Channel.setTcie_readTimeout (c : Channel) (b : Bool) : (c.setTcie b).readTimeout = c.readTimeout := rfl
@[simp] theorem Channel.setTcie_cbEn (c : Channel) (b : Bool) : (c.setTcie b).cbEn = c.cbEn := rfl
@[simp] theorem Channel.setTcie_cbCtx (c : Channel) (b : Bool) : (c.setTcie b).cbCtx = c.cbCtx := rfl
@[simp] theorem Channel.setTcie_lp (c : Channel) (b : Bool) : (c.setTcie b).lp = c.lp := rfl
@[simp] theorem Channel.setTcie_ier (c : Channel) (b : Bool) : (c.setTcie b).ier = { c.ier with tcie := b } := rfl
@[simp] theorem Channel.setTcie_isr (c : Channel) (b : Bool) : (c.setTcie b).isr = c.isr := rfl
@[simp] theorem Channel.setTcie_tdr (c : Channel) (b : Bool) : (c.setTcie b).tdr = c.tdr := rfl
@[simp] theorem Channel.setTcie_rdr (c : Channel) (b : Bool) : (c.setTcie b).rdr = c.rdr := rfl
@[simp] theorem Channel.setTcie_tsrBusy (c : Channel) (b : Bool) : (c.setTcie b).tsrBusy = c.tsrBusy := rfl
@[simp] theorem Channel.setTcie_tsr (c : Channel) (b : Bool) : (c.setTcie b).tsr = c.tsr := rfl
@[simp] theorem Channel.setTcie_wq (c : Channel) (b : Bool) : (c.setTcie b).wq = c.wq := rfl
@[simp] theorem Channel.setTcie_rq (c : Channel) (b : Bool) : (c.setTcie b).rq = c.rq := rfl
@[simp] theorem Channel.setTcie_wt (c : Channel) (b : Bool) : (c.setTcie b).wt = c.wt := rfl
@[simp] theorem Channel.setTcie_rt (c : Channel) (b : Bool) : (c.setTcie b).rt = c.rt := rfl
@[simp] theorem Channel.setTcie_txlog (c : Channel) (b : Bool) : (c.setTcie b).txlog = c.txlog := rfl
@[simp] theorem Channel.setTcie_linelog (c : Channel) (b : Bool) : (c.setTcie b).linelog = c.linelog := rfl

/-! ### `Channel.setRxneie` -/

@[simp] theorem Channel.setRxneie_initialized (c : Channel) (b : Bool) : (c.setRxneie b).initialized = c.initialized := rfl
@[simp] theorem Channel.setRxneie_writeState (c : Channel) (b : Bool) : (c.setRxneie b).writeState = c.writeState := rfl
@[simp] theorem Channel.setRxneie_readState (c : Channel) (b : Bool) : (c.setRxneie b).readState = c.readState := rfl
@[simp] theorem Channel.setRxneie_wqAttached (c : Channel) (b : Bool) : (c.setRxneie b).wqAttached = c.wqAttached := rfl
@[simp] theorem Channel.setRxneie_rqAttached (c : Channel) (b : Bool) : (c.setRxneie b).rqAttached = c.rqAttached := rfl
@[simp] theorem Channel.setRxneie_readTimeout (c : Channel) (b : Bool) : (c.setRxneie b).readTimeout = c.readTimeout := rfl
@[simp] theorem Channel.setRxneie_cbEn (c : Channel) (b : Bool) : (c.setRxneie b).cbEn = c.cbEn := rfl
@[simp] theorem Channel.setRxneie_cbCtx (c : Channel) (b : Bool) : (c.setRxneie b).cbCtx = c.cbCtx := rfl
@[simp] theorem Channel.setRxneie_lp (c : Channel) (b : Bool) : (c.setRxneie b).lp = c.lp := rfl
@[simp] theorem Channel.setRxneie_ier (c : Channel) (b : Bool) : (c.setRxneie b).ier = { c.ier with rxneie := b } := rfl
@[simp] theorem Channel.setRxneie_isr (c : Channel) (b : Bool) : (c.setRxneie b).isr = c.isr := rfl
@[simp] theorem Channel.setRxneie_tdr (c : Channel) (b : Bool) : (c.setRxneie b).tdr = c.tdr := rfl
@[simp] theorem Channel.setRxneie_rdr (c : Channel) (b : Bool) : (c.setRxneie b).rdr = c.rdr := rfl
@[simp] theorem Channel.setRxneie_tsrBusy (c : Channel) (b : Bool) : (c.setRxneie b).tsrBusy = c.tsrBusy := rfl
@[simp] theorem Channel.setRxneie_tsr (c : Channel) (b : Bool) : (c.setRxneie b).tsr = c.tsr := rfl
@[simp] theorem Channel.setRxneie_wq (c : Channel) (b : Bool) : (c.setRxneie b).wq = c.wq := rfl
@[simp] theorem Channel.setRxneie_rq (c : Channel) (b : Bool) : (c.setRxneie b).rq = c.rq := rfl
@[simp] theorem Channel.setRxneie_wt (c : Channel) (b : Bool) : (c.setRxneie b).wt = c.wt := rfl
@[simp] theorem Channel.setRxneie_rt (c : Channel) (b : Bool) : (c.setRxneie b).rt = c.rt := rfl
@[simp] theorem Channel.setRxneie_txlog (c : Channel) (b : Bool) : (c.setRxneie b).txlog = c.txlog := rfl
@[simp] theorem Channel.setRxneie_linelog (c : Channel) (b : Bool) : (c.setRxneie b).linelog = c.linelog := rfl

/-! ### `Channel.writeTdr` -/

@[simp] theorem Channel.writeTdr_initialized (c : Channel) (b : Byte) : (c.writeTdr b).initialized = c.initialized := rfl
@[simp] theorem Channel.writeTdr_writeState (c : Channel) (b : Byte) : (c.writeTdr b).writeState = c.writeState := rfl
@[simp] theorem Channel.writeTdr_readState (c : Channel) (b : Byte) : (c.writeTdr b).readState = c.readState := rfl
@[simp] theorem Channel.writeTdr_wqAttached (c : Channel) (b : Byte) : (c.writeTdr b).wqAttached = c.wqAttached := rfl
@[simp] theorem Channel.writeTdr_rqAttached (c : Channel) (b : Byte) : (c.writeTdr b).rqAttached = c.rqAttached := rfl
@[simp] theorem Channel.writeTdr_readTimeout (c : Channel) (b : Byte) : (c.writeTdr b).readTimeout = c.readTimeout := rfl
@[simp] theorem Channel.writeTdr_cbEn (c : Channel) (b : Byte) : (c.writeTdr b).cbEn = c.cbEn := rfl
@[simp] theorem Channel.writeTdr_cbCtx (c : Channel) (b : Byte) : (c.writeTdr b).cbCtx = c.cbCtx := rfl
@[simp] theorem Channel.writeTdr_lp (c : Channel) (b : Byte) : (c.writeTdr b).lp = c.lp := rfl
@[simp] theorem Channel.writeTdr_ier (c : Channel) (b : Byte) : (c.writeTdr b).ier = c.ier := rfl
@[simp] theorem Channel.writeTdr_isr (c : Channel) (b : Byte) : (c.writeTdr b).isr = { c.isr with txe := false, tc := false } := rfl
@[simp] theorem Channel.writeTdr_tdr (c : Channel) (b : Byte) : (c.writeTdr b).tdr = b := rfl
@[simp] theorem Channel.writeTdr_rdr (c : Channel) (b : Byte) : (c.writeTdr b).rdr = c.rdr := rfl
@[simp] theorem Channel.writeTdr_tsrBusy (c : Channel) (b : Byte) : (c.writeTdr b).tsrBusy = c.tsrBusy := rfl
@[simp] theorem Channel.writeTdr_tsr (c : Channel) (b : Byte) : (c.writeTdr b).tsr = c.tsr := rfl
@[simp] theorem Channel.writeTdr_wq (c : Channel) (b : Byte) : (c.writeTdr b).wq = c.wq := rfl
@[simp] theorem Channel.writeTdr_rq (c : Channel) (b : Byte) : (c.writeTdr b).rq = c.rq := rfl
@[simp] theorem Channel.writeTdr_wt (c : Channel) (b : Byte) : (c.writeTdr b).wt = c.wt := rfl
@[simp] theorem Channel.writeTdr_rt (c : Channel) (b : Byte) : (c.writeTdr b).rt = c.rt := rfl
@[simp] theorem Channel.writeTdr_txlog (c : Channel) (b : Byte) : (c.writeTdr b).txlog = c.txlog ++ [b] := rfl
@[simp] theorem Channel.writeTdr_linelog (c : Channel) (b : Byte) : (c.writeTdr b).linelog = c.linelog := rfl

/-! ### `Channel.loadShift` -/

@[simp] theorem Channel.loadShift_initialized (c : Channel) : (c.loadShift).initialized = c.initialized := rfl
@[simp] theorem Channel.loadShift_writeState (c : Channel) : (c.loadShift).writeState = c.writeState := rfl
@[simp] theorem Channel.loadShift_readState (c : Channel) : (c.loadShift).readState = c.readState := rfl
@[simp] theorem Channel.loadShift_wqAttached (c : Channel) : (c.loadShift).wqAttached = c.wqAttached := rfl
@[simp] theorem Channel.loadShift_rqAttached (c : Channel) : (c.loadShift).rqAttached = c.rqAttached := rfl
@[simp] theorem Channel.loadShift_readTimeout (c : Channel) : (c.loadShift).readTimeout = c.readTimeout := rfl
@[simp] theorem Channel.loadShift_cbEn (c : Channel) : (c.loadShift).cbEn = c.cbEn := rfl
@[simp] theorem Channel.loadShift_cbCtx (c : Channel) : (c.loadShift).cbCtx = c.cbCtx := rfl
@[simp] theorem Channel.loadShift_lp (c : Channel) : (c.loadShift).lp = c.lp := rfl
@[simp] theorem Channel.loadShift_ier (c : Channel) : (c.loadShift).ier = c.ier := rfl
@[simp] theorem Channel.loadShift_isr (c : Channel) : (c.loadShift).isr = { c.isr with txe := true } := rfl
@[simp] theorem Channel.loadShift_tdr (c : Channel) : (c.loadShift).tdr = c.tdr := rfl
@[simp] theorem Channel.loadShift_rdr (c : Channel) : (c.loadShift).rdr = c.rdr := rfl
@[simp] theorem Channel.loadShift_tsrBusy (c : Channel) : (c.loadShift).tsrBusy = true := rfl
@[simp] theorem Channel.loadShift_tsr (c : Channel) : (c.loadShift).tsr = c.tdr := rfl
@[simp] theorem Channel.loadShift_wq (c : Channel) : (c.loadShift).wq = c.wq := rfl
@[simp] theorem Channel.loadShift_rq (c : Channel) : (c.loadShift).rq = c.rq := rfl
@[simp] theorem Channel.loadShift_wt (c : Channel) : (c.loadShift).wt = c.wt := rfl
@[simp] theorem Channel.loadShift_rt (c : Channel) : (c.loadShift).rt = c.rt := rfl
@[simp] theorem Channel.loadShift_txlog (c : Channel) : (c.loadShift).txlog = c.txlog := rfl
@[simp] theorem Channel.loadShift_linelog (c : Channel) : (c.loadShift).linelog = c.linelog := rfl

/-! ### `Channel.finishShift` -/

@[simp] theorem Channel.finishShift_initialized (c : Channel) : (c.finishShift).initialized = c.initialized := rfl
@[simp] theorem Channel.finishShift_writeState (c : Channel) : (c.finishShift).writeState = c.writeState := rfl
@[simp] theorem Channel.finishShift_readState (c : Channel) : (c.finishShift).readState = c.readState := rfl
@[simp] theorem Channel.finishShift_wqAttached (c : Channel) : (c.finishShift).wqAttached = c.wqAttached := rfl
@[simp] theorem Channel.finishShift_rqAttached (c : Channel) : (c.finishShift).rqAttached = c.rqAttached := rfl
@[simp] theorem Channel.finishShift_readTimeout (c : Channel) : (c.finishShift).readTimeout = c.readTimeout := rfl
@[simp] theorem Channel.finishShift_cbEn (c : Channel) : (c.finishShift).cbEn = c.cbEn := rfl
@[simp] theorem Channel.finishShift_cbCtx (c : Channel) : (c.finishShift).cbCtx = c.cbCtx := rfl
@[simp] theorem Channel.finishShift_lp (c : Channel) : (c.finishShift).lp = c.lp := rfl
@[simp] theorem Channel.finishShift_ier (c : Channel) : (c.finishShift).ier = c.ier := rfl
@[simp] theorem Channel.finishShift_isr (c : Channel) : (c.finishShift).isr = { c.isr with tc := c.isr.tc || c.isr.txe } := rfl
@[simp] theorem Channel.finishShift_tdr (c : Channel) : (c.finishShift).tdr = c.tdr := rfl
@[simp] theorem Channel.finishShift_rdr (c : Channel) : (c.finishShift).rdr = c.rdr := rfl
@[simp] theorem Channel.finishShift_tsrBusy (c : Channel) : (c.finishShift).tsrBusy = false := rfl
@[simp] theorem Channel.finishShift_tsr (c : Channel) : (c.finishShift).tsr = c.tsr := rfl
@[simp] theorem Channel.finishShift_wq (c : Channel) : (c.finishShift).wq = c.wq := rfl
@[simp] theorem Channel.finishShift_rq (c : Channel) : (c.finishShift).rq = c.rq := rfl
@[simp] theorem Channel.finishShift_wt (c : Channel) : (c.finishShift).wt = c.wt := rfl
@[simp] theorem Channel.finishShift_rt (c : Channel) : (c.finishShift).rt = c.rt := rfl
@[simp] theorem Channel.finishShift_txlog (c : Channel) : (c.finishShift).txlog = c.txlog := rfl
@[simp] theorem Channel.finishShift_linelog (c : Channel) : (c.finishShift).linelog = c.linelog ++ [c.tsr] := rfl

/-! ### `Channel.idleTransceiver` -/

@[simp] theorem Channel.idleTransceiver_initialized (c : Channel) : (c.idleTransceiver).initialized = c.initialized := rfl
@[simp] theorem Channel.idleTransceiver_writeState (c : Channel) : (c.idleTransceiver).writeState = c.writeState := rfl
@[simp] theorem Channel.idleTransceiver_readState (c : Channel) : (c.idleTransceiver).readState = c.readState := rfl
@[simp] theorem Channel.idleTransceiver_wqAttached (c : Channel) : (c.idleTransceiver).wqAttached = c.wqAttached := rfl
@[simp] theorem Channel.idleTransceiver_rqAttached (c : Channel) : (c.idleTransceiver).rqAttached = c.rqAttached := rfl
@[simp] theorem Channel.idleTransceiver_readTimeout (c : Channel) : (c.idleTransceiver).readTimeout = c.readTimeout := rfl
@[simp] theorem Channel.idleTransceiver_cbEn (c : Channel) : (c.idleTransceiver).cbEn = c.cbEn := rfl
@[simp] theorem Channel.idleTransceiver_cbCtx (c : Channel) : (c.idleTransceiver).cbCtx = c.cbCtx := rfl
@[simp] theorem Channel.idleTransceiver_lp (c : Channel) : (c.idleTransceiver).lp = c.lp := rfl
@[simp] theorem Channel.idleTransceiver_ier (c : Channel) : (c.idleTransceiver).ier = ⟨false, false, false⟩ := rfl
@[simp] theorem Channel.idleTransceiver_isr (c : Channel) : (c.idleTransceiver).isr = ⟨true, true, false⟩ := rfl
@[simp] theorem Channel.idleTransceiver_tdr (c : Channel) : (c.idleTransceiver).tdr = c.tdr := rfl
@[simp] theorem Channel.idleTransceiver_rdr (c : Channel) : (c.idleTransceiver).rdr = c.rdr := rfl
@[simp] theorem Channel.idleTransceiver_tsrBusy (c : Channel) : (c.idleTransceiver).tsrBusy = false := rfl
@[simp] theorem Channel.idleTransceiver_tsr (c : Channel) : (c.idleTransceiver).tsr = c.tsr := rfl
@[simp] theorem Channel.idleTransceiver_wq (c : Channel) : (c.idleTransceiver).wq = c.wq := rfl
@[simp] theorem Channel.idleTransceiver_rq (c : Channel) : (c.idleTransceiver).rq = c.rq := rfl
@[simp] theorem Channel.idleTransceiver_wt (c : Channel) : (c.idleTransceiver).wt = c.wt := rfl
@[simp] theorem Channel.idleTransceiver_rt (c : Channel) : (c.idleTransceiver).rt = c.rt := rfl
@[simp] theorem Channel.idleTransceiver_txlog (c : Channel) : (c.idleTransceiver).txlog = c.txlog := rfl
@[simp] theorem Channel.idleTransceiver_linelog (c : Channel) : (c.idleTransceiver).linelog = c.linelog := rfl

/-! ### The read of RDR -/

@[simp] theorem Channel.readRdr_fst (c : Channel) : c.readRdr.1 = c.rdr := rfl
@[simp] theorem Channel.readRdr_initialized (c : Channel) : c.readRdr.2.initialized = c.initialized := rfl
@[simp] theorem Channel.readRdr_writeState (c : Channel) : c.readRdr.2.writeState = c.writeState := rfl
@[simp] theorem Channel.readRdr_readState (c : Channel) : c.readRdr.2.readState = c.readState := rfl
@[simp] theorem Channel.readRdr_wqAttached (c : Channel) : c.readRdr.2.wqAttached = c.wqAttached := rfl
@[simp] theorem Channel.readRdr_rqAttached (c : Channel) : c.readRdr.2.rqAttached = c.rqAttached := rfl
@[simp] theorem Channel.readRdr_readTimeout (c : Channel) : c.readRdr.2.readTimeout = c.readTimeout := rfl
@[simp] theorem Channel.readRdr_cbEn (c : Channel) : c.readRdr.2.cbEn = c.cbEn := rfl
@[simp] theorem Channel.readRdr_cbCtx (c : Channel) : c.readRdr.2.cbCtx = c.cbCtx := rfl
@[simp] theorem Channel.readRdr_lp (c : Channel) : c.readRdr.2.lp = c.lp := rfl
@[simp] theorem Channel.readRdr_ier (c : Channel) : c.readRdr.2.ier = c.ier := rfl
@[simp] theorem Channel.readRdr_isr (c : Channel) : c.readRdr.2.isr = { c.isr with rxne := false } := rfl
@[simp] theorem Channel.readRdr_tdr (c : Channel) : c.readRdr.2.tdr = c.tdr := rfl
@[simp] theorem Channel.readRdr_rdr (c : Channel) : c.readRdr.2.rdr = c.rdr := rfl
@[simp] theorem Channel.readRdr_tsrBusy (c : Channel) : c.readRdr.2.tsrBusy = c.tsrBusy := rfl
@[simp] theorem Channel.readRdr_tsr (c : Channel) : c.readRdr.2.tsr = c.tsr := rfl
@[simp] theorem Channel.readRdr_wq (c : Channel) : c.readRdr.2.wq = c.wq := rfl
@[simp] theorem Channel.readRdr_rq (c : Channel) : c.readRdr.2.rq = c.rq := rfl
@[simp] theorem Channel.readRdr_wt (c : Channel) : c.readRdr.2.wt = c.wt := rfl
@[simp] theorem Channel.readRdr_rt (c : Channel) : c.readRdr.2.rt = c.rt := rfl
@[simp] theorem Channel.readRdr_txlog (c : Channel) : c.readRdr.2.txlog = c.txlog := rfl
@[simp] theorem Channel.readRdr_linelog (c : Channel) : c.readRdr.2.linelog = c.linelog := rfl

/-! ### HWRX's update: everything but RDR and RXNE stays -/

@[simp] theorem Channel.receive_initialized (c : Channel) (b : Byte) : (c.receive b).initialized = c.initialized := by
  unfold Channel.receive; split <;> rfl
@[simp] theorem Channel.receive_writeState (c : Channel) (b : Byte) : (c.receive b).writeState = c.writeState := by
  unfold Channel.receive; split <;> rfl
@[simp] theorem Channel.receive_readState (c : Channel) (b : Byte) : (c.receive b).readState = c.readState := by
  unfold Channel.receive; split <;> rfl
@[simp] theorem Channel.receive_wqAttached (c : Channel) (b : Byte) : (c.receive b).wqAttached = c.wqAttached := by
  unfold Channel.receive; split <;> rfl
@[simp] theorem Channel.receive_rqAttached (c : Channel) (b : Byte) : (c.receive b).rqAttached = c.rqAttached := by
  unfold Channel.receive; split <;> rfl
@[simp] theorem Channel.receive_readTimeout (c : Channel) (b : Byte) : (c.receive b).readTimeout = c.readTimeout := by
  unfold Channel.receive; split <;> rfl
@[simp] theorem Channel.receive_cbEn (c : Channel) (b : Byte) : (c.receive b).cbEn = c.cbEn := by
  unfold Channel.receive; split <;> rfl
@[simp] theorem Channel.receive_cbCtx (c : Channel) (b : Byte) : (c.receive b).cbCtx = c.cbCtx := by
  unfold Channel.receive; split <;> rfl
@[simp] theorem Channel.receive_lp (c : Channel) (b : Byte) : (c.receive b).lp = c.lp := by
  unfold Channel.receive; split <;> rfl
@[simp] theorem Channel.receive_ier (c : Channel) (b : Byte) : (c.receive b).ier = c.ier := by
  unfold Channel.receive; split <;> rfl
@[simp] theorem Channel.receive_tdr (c : Channel) (b : Byte) : (c.receive b).tdr = c.tdr := by
  unfold Channel.receive; split <;> rfl
@[simp] theorem Channel.receive_tsrBusy (c : Channel) (b : Byte) : (c.receive b).tsrBusy = c.tsrBusy := by
  unfold Channel.receive; split <;> rfl
@[simp] theorem Channel.receive_tsr (c : Channel) (b : Byte) : (c.receive b).tsr = c.tsr := by
  unfold Channel.receive; split <;> rfl
@[simp] theorem Channel.receive_wq (c : Channel) (b : Byte) : (c.receive b).wq = c.wq := by
  unfold Channel.receive; split <;> rfl
@[simp] theorem Channel.receive_rq (c : Channel) (b : Byte) : (c.receive b).rq = c.rq := by
  unfold Channel.receive; split <;> rfl
@[simp] theorem Channel.receive_wt (c : Channel) (b : Byte) : (c.receive b).wt = c.wt := by
  unfold Channel.receive; split <;> rfl
@[simp] theorem Channel.receive_rt (c : Channel) (b : Byte) : (c.receive b).rt = c.rt := by
  unfold Channel.receive; split <;> rfl
@[simp] theorem Channel.receive_txlog (c : Channel) (b : Byte) : (c.receive b).txlog = c.txlog := by
  unfold Channel.receive; split <;> rfl
@[simp] theorem Channel.receive_linelog (c : Channel) (b : Byte) : (c.receive b).linelog = c.linelog := by
  unfold Channel.receive; split <;> rfl

/-- An overrun changes nothing (44_environment.md R183). -/
theorem Channel.receive_overrun (c : Channel) (b : Byte) (h : c.isr.rxne = true) : c.receive b = c := by
  simp [Channel.receive, h]

/-- A byte that finds RDR free is held there. -/
theorem Channel.receive_free (c : Channel) (b : Byte) (h : c.isr.rxne = false) :
    c.receive b = { c with rdr := b, isr := { c.isr with rxne := true } } := by
  simp [Channel.receive, h]

/-! ### `Shared.enableHf` -/

@[simp] theorem Shared.enableHf_now (g : Shared) :
    (g.enableHf).now = g.now := rfl
@[simp] theorem Shared.enableHf_hfCount (g : Shared) :
    (g.enableHf).hfCount = g.hfCount + 1 := rfl
@[simp] theorem Shared.enableHf_dsCount (g : Shared) :
    (g.enableHf).dsCount = g.dsCount := rfl
@[simp] theorem Shared.enableHf_resp (g : Shared) :
    (g.enableHf).resp = g.resp := rfl
@[simp] theorem Shared.enableHf_events (g : Shared) :
    (g.enableHf).events = g.events := rfl
@[simp] theorem Shared.enableHf_pglog (g : Shared) :
    (g.enableHf).pglog = g.pglog ++ [.enHf] := rfl
@[simp] theorem Shared.enableHf_draws (g : Shared) :
    (g.enableHf).draws = g.draws := rfl

/-! ### `Shared.suppressDs` -/

@[simp] theorem Shared.suppressDs_now (g : Shared) :
    (g.suppressDs).now = g.now := rfl
@[simp] theorem Shared.suppressDs_hfCount (g : Shared) :
    (g.suppressDs).hfCount = g.hfCount := rfl
@[simp] theorem Shared.suppressDs_dsCount (g : Shared) :
    (g.suppressDs).dsCount = g.dsCount + 1 := rfl
@[simp] theorem Shared.suppressDs_resp (g : Shared) :
    (g.suppressDs).resp = g.resp := rfl
@[simp] theorem Shared.suppressDs_events (g : Shared) :
    (g.suppressDs).events = g.events := rfl
@[simp] theorem Shared.suppressDs_pglog (g : Shared) :
    (g.suppressDs).pglog = g.pglog ++ [.supDs] := rfl
@[simp] theorem Shared.suppressDs_draws (g : Shared) :
    (g.suppressDs).draws = g.draws := rfl

/-! ### `Shared.respond` -/

@[simp] theorem Shared.respond_now (g : Shared) (op : Op) (ch : Nat) (st : Status) (val : Nat) (payload : List Byte) :
    (g.respond op ch st val payload).now = g.now := rfl
@[simp] theorem Shared.respond_hfCount (g : Shared) (op : Op) (ch : Nat) (st : Status) (val : Nat) (payload : List Byte) :
    (g.respond op ch st val payload).hfCount = g.hfCount := rfl
@[simp] theorem Shared.respond_dsCount (g : Shared) (op : Op) (ch : Nat) (st : Status) (val : Nat) (payload : List Byte) :
    (g.respond op ch st val payload).dsCount = g.dsCount := rfl
@[simp] theorem Shared.respond_resp (g : Shared) (op : Op) (ch : Nat) (st : Status) (val : Nat) (payload : List Byte) :
    (g.respond op ch st val payload).resp = g.resp ++ [⟨op, ch, st, val, payload⟩] := rfl
@[simp] theorem Shared.respond_events (g : Shared) (op : Op) (ch : Nat) (st : Status) (val : Nat) (payload : List Byte) :
    (g.respond op ch st val payload).events = g.events := rfl
@[simp] theorem Shared.respond_pglog (g : Shared) (op : Op) (ch : Nat) (st : Status) (val : Nat) (payload : List Byte) :
    (g.respond op ch st val payload).pglog = g.pglog := rfl
@[simp] theorem Shared.respond_draws (g : Shared) (op : Op) (ch : Nat) (st : Status) (val : Nat) (payload : List Byte) :
    (g.respond op ch st val payload).draws = g.draws := rfl

/-! ### `Shared.emitEvent` -/

@[simp] theorem Shared.emitEvent_now (g : Shared) (ch : Nat) (kind : EventKind) (ctx : BitVec 16) :
    (g.emitEvent ch kind ctx).now = g.now := rfl
@[simp] theorem Shared.emitEvent_hfCount (g : Shared) (ch : Nat) (kind : EventKind) (ctx : BitVec 16) :
    (g.emitEvent ch kind ctx).hfCount = g.hfCount := rfl
@[simp] theorem Shared.emitEvent_dsCount (g : Shared) (ch : Nat) (kind : EventKind) (ctx : BitVec 16) :
    (g.emitEvent ch kind ctx).dsCount = g.dsCount := rfl
@[simp] theorem Shared.emitEvent_resp (g : Shared) (ch : Nat) (kind : EventKind) (ctx : BitVec 16) :
    (g.emitEvent ch kind ctx).resp = g.resp := rfl
@[simp] theorem Shared.emitEvent_events (g : Shared) (ch : Nat) (kind : EventKind) (ctx : BitVec 16) :
    (g.emitEvent ch kind ctx).events = g.events ++ [⟨ch, kind, ctx⟩] := rfl
@[simp] theorem Shared.emitEvent_pglog (g : Shared) (ch : Nat) (kind : EventKind) (ctx : BitVec 16) :
    (g.emitEvent ch kind ctx).pglog = g.pglog := rfl
@[simp] theorem Shared.emitEvent_draws (g : Shared) (ch : Nat) (kind : EventKind) (ctx : BitVec 16) :
    (g.emitEvent ch kind ctx).draws = g.draws := rfl

end Sys2Proof.Machine
end

