-- ==== Sys2Proof/Laws/Ops.lean ====
section
/-!
SUPPORT. One lemma per shared operation that says all it can do: queues, slots, power gate, ports, and the ways a step is
guarded and committed.
-/

namespace Sys2Proof

@[simp] theorem Due.reached_inf (now : Nat) : Due.inf.reached now = false := rfl

@[simp] theorem Due.reached_ticks (now t : Nat) : (Due.ticks t).reached now = decide (t ≤ now) := rfl

/-- A due-time that is reached stays reached as time advances (00_scope.md R14). -/
theorem Due.reached_mono {now now' : Nat} (h : now ≤ now') {d : Due} (hd : d.reached now = true) :
    d.reached now' = true := by
  cases d with
  | inf => simp at hd
  | ticks t => simp at hd ⊢; omega

end Sys2Proof

namespace Sys2Proof.Machine

/-! ### Queues -/

@[simp] theorem ByteQueue.push_fst (q : ByteQueue) (bs : List Byte) :
    (q.push bs).1 = min bs.length (q.cap - q.data.length) := rfl

@[simp] theorem ByteQueue.push_data (q : ByteQueue) (bs : List Byte) :
    (q.push bs).2.data = q.data ++ bs.take (min bs.length (q.cap - q.data.length)) := rfl

@[simp] theorem ByteQueue.push_cap (q : ByteQueue) (bs : List Byte) : (q.push bs).2.cap = q.cap := rfl

@[simp] theorem ByteQueue.pop_fst (q : ByteQueue) (m : Nat) :
    (q.pop m).1 = q.data.take (min m q.data.length) := rfl

@[simp] theorem ByteQueue.pop_data (q : ByteQueue) (m : Nat) :
    (q.pop m).2.data = q.data.drop (min m q.data.length) := rfl

@[simp] theorem ByteQueue.pop_cap (q : ByteQueue) (m : Nat) : (q.pop m).2.cap = q.cap := rfl

@[simp] theorem ByteQueue.pushOne_cap (q : ByteQueue) (b : Byte) : (q.pushOne b).2.cap = q.cap := by
  unfold ByteQueue.pushOne; split <;> rfl

@[simp] theorem ByteQueue.popOne_cap (q : ByteQueue) : q.popOne.2.cap = q.cap := by
  unfold ByteQueue.popOne; split <;> rfl

/-- What `pop_one` answers splits the queue at its head. -/
theorem ByteQueue.popOne_cases (q : ByteQueue) :
    (q.data = [] ∧ q.popOne = (none, q)) ∨
      ∃ b rest, q.data = b :: rest ∧ q.popOne = (some b, { q with data := rest }) := by
  unfold ByteQueue.popOne
  cases h : q.data with
  | nil => exact .inl ⟨rfl, rfl⟩
  | cons b rest => exact .inr ⟨b, rest, rfl, rfl⟩

/-- `push_one` appends the byte or drops it, never anything else. -/
theorem ByteQueue.pushOne_cases (q : ByteQueue) (b : Byte) :
    (q.data.length < q.cap ∧ q.pushOne b = (true, { q with data := q.data ++ [b] })) ∨
      (q.cap ≤ q.data.length ∧ q.pushOne b = (false, q)) := by
  unfold ByteQueue.pushOne
  by_cases h : q.data.length < q.cap
  · exact .inl ⟨h, by simp [h]⟩
  · exact .inr ⟨by omega, by simp [h]⟩

theorem ByteQueue.push_keeps_wf (q : ByteQueue) (bs : List Byte) (h : q.wf = true) : (q.push bs).2.wf = true := by
  simp only [ByteQueue.wf, decide_eq_true_eq, ByteQueue.push_data, ByteQueue.push_cap, List.length_append,
    List.length_take] at h ⊢
  omega

theorem ByteQueue.pop_keeps_wf (q : ByteQueue) (m : Nat) (h : q.wf = true) : (q.pop m).2.wf = true := by
  simp only [ByteQueue.wf, decide_eq_true_eq, ByteQueue.pop_data, ByteQueue.pop_cap, List.length_drop] at h ⊢
  omega

theorem ByteQueue.pushOne_keeps_wf (q : ByteQueue) (b : Byte) (h : q.wf = true) : (q.pushOne b).2.wf = true := by
  rcases q.pushOne_cases b with ⟨hlt, e⟩ | ⟨_, e⟩
  · simp [e, ByteQueue.wf]; omega
  · simpa [e] using h

theorem ByteQueue.popOne_keeps_wf (q : ByteQueue) (h : q.wf = true) : q.popOne.2.wf = true := by
  rcases q.popOne_cases with ⟨_, e⟩ | ⟨b, rest, hd, e⟩
  · simpa [e] using h
  · simp [ByteQueue.wf, hd] at h
    simp [e, ByteQueue.wf]; omega

/-! ### Slots -/

theorem Slot.register_ok {sl sl' : Slot} {due : Due} :
    sl.register due = .ok sl' ↔ sl.registered = false ∧ sl' = ⟨true, due⟩ := by
  by_cases h : sl.registered <;> simp [Slot.register, h, eq_comm]

theorem Slot.reschedule_ok {sl sl' : Slot} {due : Due} :
    sl.reschedule due = .ok sl' ↔ sl.registered = true ∧ sl' = ⟨true, due⟩ := by
  cases sl with | mk reg d => cases reg <;> simp [Slot.reschedule, eq_comm]

theorem Slot.rescheduleRelativeNow_ok {sl sl' : Slot} {d now : Nat} :
    sl.rescheduleRelativeNow d now = .ok sl' ↔ sl.registered = true ∧ sl' = ⟨true, .ticks (now + d)⟩ := by
  cases sl with | mk reg e => cases reg <;> simp [Slot.rescheduleRelativeNow, eq_comm]

theorem Slot.unregister_ok {sl sl' : Slot} {free : Due} :
    sl.unregister free = .ok sl' ↔ sl.registered = true ∧ sl' = ⟨false, free⟩ := by
  by_cases h : sl.registered <;> simp [Slot.unregister, h, eq_comm]

theorem Slot.runNow_ok {sl sl' : Slot} {now : Nat} :
    sl.runNow now = .ok sl' ↔ sl.registered = true ∧ sl' = ⟨true, .ticks now⟩ := by
  cases sl with | mk reg d => cases reg <;> simp [Slot.runNow, eq_comm]

/-- Every scheduler primitive faults with the one reason, on exactly the slots it does not accept. -/
theorem Slot.register_error {sl : Slot} {due : Due} {r : FaultReason} :
    sl.register due = .error r ↔ sl.registered = true ∧ r = .schedBadSlot := by
  by_cases h : sl.registered <;> simp [Slot.register, h, eq_comm]

theorem Slot.reschedule_error {sl : Slot} {due : Due} {r : FaultReason} :
    sl.reschedule due = .error r ↔ sl.registered = false ∧ r = .schedBadSlot := by
  by_cases h : sl.registered <;> simp [Slot.reschedule, h, eq_comm]

theorem Slot.rescheduleRelativeNow_error {sl : Slot} {d now : Nat} {r : FaultReason} :
    sl.rescheduleRelativeNow d now = .error r ↔ sl.registered = false ∧ r = .schedBadSlot := by
  by_cases h : sl.registered <;> simp [Slot.rescheduleRelativeNow, h, eq_comm]

theorem Slot.unregister_error {sl : Slot} {free : Due} {r : FaultReason} :
    sl.unregister free = .error r ↔ sl.registered = false ∧ r = .schedBadSlot := by
  by_cases h : sl.registered <;> simp [Slot.unregister, h, eq_comm]

theorem Slot.runNow_error {sl : Slot} {now : Nat} {r : FaultReason} :
    sl.runNow now = .error r ↔ sl.registered = false ∧ r = .schedBadSlot := by
  by_cases h : sl.registered <;> simp [Slot.runNow, h, eq_comm]

theorem Slot.ready_iff {sl : Slot} {now : Nat} :
    sl.ready now = true ↔ sl.registered = true ∧ sl.due.reached now = true := by
  simp [Slot.ready]

/-! ### Power gate -/

theorem Shared.disableHf_ok {g g' : Shared} :
    g.disableHf = .ok g' ↔
      g.hfCount ≠ 0 ∧ g' = { g with hfCount := g.hfCount - 1, pglog := g.pglog ++ [.disHf] } := by
  by_cases h : g.hfCount = 0 <;> simp [Shared.disableHf, h, eq_comm]

theorem Shared.disableHf_error {g : Shared} {r : FaultReason} :
    g.disableHf = .error r ↔ g.hfCount = 0 ∧ r = .pgUnderflow := by
  by_cases h : g.hfCount = 0 <;> simp [Shared.disableHf, h, eq_comm]

theorem Shared.allowDs_ok {g g' : Shared} :
    g.allowDs = .ok g' ↔
      g.dsCount ≠ 0 ∧ g' = { g with dsCount := g.dsCount - 1, pglog := g.pglog ++ [.alwDs] } := by
  by_cases h : g.dsCount = 0 <;> simp [Shared.allowDs, h, eq_comm]

theorem Shared.allowDs_error {g : Shared} {r : FaultReason} :
    g.allowDs = .error r ↔ g.dsCount = 0 ∧ r = .pgUnderflow := by
  by_cases h : g.dsCount = 0 <;> simp [Shared.allowDs, h, eq_comm]

@[simp] theorem Shared.acquireWrite_true (g : Shared) : g.acquireWrite true = g.suppressDs := rfl
@[simp] theorem Shared.acquireWrite_false (g : Shared) : g.acquireWrite false = g.enableHf := rfl
@[simp] theorem Shared.releaseWrite_true (g : Shared) : g.releaseWrite true = g.allowDs := rfl
@[simp] theorem Shared.releaseWrite_false (g : Shared) : g.releaseWrite false = g.disableHf := rfl

/-! ### Ports and slots through a `Focus` -/

/-- Reporting an event touches the event port only. -/
@[simp] theorem Focus.report_c (f : Focus) (ch : Nat) (kind : EventKind) : (f.report ch kind).c = f.c := by
  unfold Focus.report; split <;> rfl

theorem Focus.report_g (f : Focus) (ch : Nat) (kind : EventKind) :
    (f.report ch kind).g =
      { f.g with events := f.g.events ++ if f.c.cbEn then [⟨ch, kind, f.c.cbCtx⟩] else [] } := by
  unfold Focus.report Shared.emitEvent
  split <;> simp

theorem Focus.unregisterWt_ok {f f' : Focus} :
    f.unregisterWt = .ok f' ↔
      f.c.wt.registered = true ∧
        f' = ⟨{ f.c with wt := ⟨false, Config.freeDue f.g.draws⟩ }, { f.g with draws := f.g.draws + 1 }⟩ := by
  unfold Focus.unregisterWt Slot.unregister
  by_cases h : f.c.wt.registered <;> simp [h, eq_comm]

theorem Focus.unregisterWt_error {f : Focus} {r : FaultReason} :
    f.unregisterWt = .error r ↔ f.c.wt.registered = false ∧ r = .schedBadSlot := by
  unfold Focus.unregisterWt Slot.unregister
  by_cases h : f.c.wt.registered <;> simp [h, eq_comm]

theorem Focus.unregisterRt_ok {f f' : Focus} :
    f.unregisterRt = .ok f' ↔
      f.c.rt.registered = true ∧
        f' = ⟨{ f.c with rt := ⟨false, Config.freeDue f.g.draws⟩ }, { f.g with draws := f.g.draws + 1 }⟩ := by
  unfold Focus.unregisterRt Slot.unregister
  by_cases h : f.c.rt.registered <;> simp [h, eq_comm]

theorem Focus.unregisterRt_error {f : Focus} {r : FaultReason} :
    f.unregisterRt = .error r ↔ f.c.rt.registered = false ∧ r = .schedBadSlot := by
  unfold Focus.unregisterRt Slot.unregister
  by_cases h : f.c.rt.registered <;> simp [h, eq_comm]

theorem Focus.answer_ok {f f' : Focus} {op : Op} {ch : Nat} {st : Status} {val : Nat} {payload : List Byte}
    {p : Option Pending} :
    f.answer op ch st val payload = .ok (f', p) ↔ f' = ⟨f.c, f.g.respond op ch st val payload⟩ ∧ p = none := by
  simp [Focus.answer, eq_comm]

@[simp] theorem Focus.answer_error {f : Focus} {op : Op} {ch : Nat} {st : Status} {val : Nat} {payload : List Byte}
    {r : FaultReason} : f.answer op ch st val payload = .error r ↔ False := by
  simp [Focus.answer]

/-! ### Guards -/

theorem State.unfaulted_next {s t : State} {k : Result} :
    s.unfaulted k = .next t ↔ s.fault = none ∧ k = .next t := by
  unfold State.unfaulted; cases s.fault <;> simp

theorem State.unfaulted_fault {s : State} {k : Result} {r : Fault} :
    s.unfaulted k = .fault r ↔ s.fault = none ∧ k = .fault r := by
  unfold State.unfaulted; cases s.fault <;> simp

theorem State.onChannel_next {s t : State} {ch : Nat} {k : Focus → Result} :
    s.onChannel ch k = .next t ↔ ∃ c, s.chans[ch]? = some c ∧ k ⟨c, s.shared⟩ = .next t := by
  unfold State.onChannel; cases s.chans[ch]? <;> simp

theorem State.onChannel_fault {s : State} {ch : Nat} {k : Focus → Result} {r : Fault} :
    s.onChannel ch k = .fault r ↔ ∃ c, s.chans[ch]? = some c ∧ k ⟨c, s.shared⟩ = .fault r := by
  unfold State.onChannel; cases s.chans[ch]? <;> simp

theorem State.independent_next {s t : State} {ch : Nat} {k : Focus → Result} :
    s.independent ch k = .next t ↔
      s.fault = none ∧ ∃ c, s.chans[ch]? = some c ∧ k ⟨c, s.shared⟩ = .next t := by
  rw [State.independent, State.unfaulted_next, State.onChannel_next]

theorem State.independent_fault {s : State} {ch : Nat} {k : Focus → Result} {r : Fault} :
    s.independent ch k = .fault r ↔
      s.fault = none ∧ ∃ c, s.chans[ch]? = some c ∧ k ⟨c, s.shared⟩ = .fault r := by
  rw [State.independent, State.unfaulted_fault, State.onChannel_fault]

theorem State.cooperative_next {s t : State} {ch : Nat} {k : Focus → Result} :
    s.cooperative ch k = .next t ↔
      s.fault = none ∧ s.coop = none ∧ ∃ c, s.chans[ch]? = some c ∧ k ⟨c, s.shared⟩ = .next t := by
  rw [State.cooperative, State.unfaulted_next]
  cases s.coop <;> simp [State.onChannel_next]

theorem State.cooperative_fault {s : State} {ch : Nat} {k : Focus → Result} {r : Fault} :
    s.cooperative ch k = .fault r ↔
      s.fault = none ∧ s.coop = none ∧ ∃ c, s.chans[ch]? = some c ∧ k ⟨c, s.shared⟩ = .fault r := by
  rw [State.cooperative, State.unfaulted_fault]
  cases s.coop <;> simp [State.onChannel_fault]

/-- A cooperative operation in a state where it may start. -/
theorem State.cooperative_ready {s : State} {ch : Nat} {c : Channel} {k : Focus → Result}
    (hf : s.fault = none) (hc : s.coop = none) (h : s.chans[ch]? = some c) :
    s.cooperative ch k = k ⟨c, s.shared⟩ := by
  simp [State.cooperative, State.unfaulted, State.onChannel, hf, hc, h]

/-- A step outside cooperative context in a state where it may be taken. -/
theorem State.independent_live {s : State} {ch : Nat} {c : Channel} {k : Focus → Result}
    (hf : s.fault = none) (h : s.chans[ch]? = some c) : s.independent ch k = k ⟨c, s.shared⟩ := by
  simp [State.independent, State.unfaulted, State.onChannel, hf, h]

theorem requires_next {cond : Bool} {why : NotEnabled} {k : Result} {t : State} :
    requires cond why k = .next t ↔ cond = true ∧ k = .next t := by
  cases cond <;> simp [requires]

theorem requires_fault {cond : Bool} {why : NotEnabled} {k : Result} {r : Fault} :
    requires cond why k = .fault r ↔ cond = true ∧ k = .fault r := by
  cases cond <;> simp [requires]

/-! ### Commits -/

theorem State.finishMicro_next {s t : State} {ch : Nat} {m : MicroResult} :
    s.finishMicro ch m = .next t ↔
      ∃ f p, m = .ok (f, p) ∧ t = { s.put ch f with coop := p.map fun q => ⟨ch, q⟩ } := by
  cases m with
  | error r => simp [State.finishMicro, State.raiseFault]
  | ok a => cases a with | mk f p => simp [State.finishMicro, eq_comm, and_assoc]

theorem State.finishMicro_fault {s : State} {ch : Nat} {m : MicroResult} {r : Fault} :
    s.finishMicro ch m = .fault r ↔
      ∃ why, m = .error why ∧ r = .raised why { s with fault := some why } := by
  cases m with
  | error why => simp [State.finishMicro, State.raiseFault, eq_comm]
  | ok a => cases a with | mk f p => simp [State.finishMicro]

theorem State.finishMicro_ne_refused (s : State) (ch : Nat) (m : MicroResult) (r : Refusal) :
    s.finishMicro ch m ≠ .refused r := by
  cases m with
  | error why => simp [State.finishMicro, State.raiseFault]
  | ok a => cases a with | mk f p => simp [State.finishMicro]

theorem State.finishStep_next {s t : State} {ch : Nat} {m : Except FaultReason Focus} :
    s.finishStep ch m = .next t ↔ ∃ f, m = .ok f ∧ t = s.put ch f := by
  cases m <;> simp [State.finishStep, State.raiseFault, eq_comm]

theorem State.finishStep_fault {s : State} {ch : Nat} {m : Except FaultReason Focus} {r : Fault} :
    s.finishStep ch m = .fault r ↔ ∃ why, m = .error why ∧ r = .raised why { s with fault := some why } := by
  cases m <;> simp [State.finishStep, State.raiseFault, eq_comm]

/-! ### The memory's form (20_memory.md R63) -/

theorem Memory.wf_iff (s : State) : Memory.wf s = true ↔ ∀ c ∈ s.chans, c.wq.wf = true ∧ c.rq.wf = true := by
  simp [Memory.wf]

/-- Replacing one channel keeps the form if the queues it brings are within their capacities. -/
theorem Memory.put_wf {s : State} (h : Memory.wf s = true) (ch : Nat) {f : Focus} (hw : f.c.wq.wf = true)
    (hr : f.c.rq.wf = true) : Memory.wf (s.put ch f) = true := by
  rw [Memory.wf_iff] at h ⊢
  intro c hc
  rcases List.mem_or_eq_of_mem_set hc with hc | rfl
  · exact h c hc
  · exact ⟨hw, hr⟩

/-- Every reset state's memory has the form. -/
theorem Memory.resetWith_wf (p : Params) : Memory.wf (State.resetWith p) = true := by
  rw [Memory.wf_iff]
  intro c hc
  obtain ⟨q, -, rfl⟩ := List.mem_map.1 hc
  simp [Channel.reset, ByteQueue.wf]

theorem Memory.reset_wf : Memory.wf State.reset = true := Memory.resetWith_wf _

/-! ### Equality tests of the enumerations -/

theorem Pending.beq_eq_decide (a b : Pending) : (a == b) = decide (a = b) := rfl

theorem WriteState.beq_eq_decide (a b : WriteState) : (a == b) = decide (a = b) := rfl

theorem ReadState.beq_eq_decide (a b : ReadState) : (a == b) = decide (a = b) := rfl

end Sys2Proof.Machine
end

