-- ==== Sys2Proof/Laws/Exec.lean ====
section
/-!
SUPPORT. What each micro-step and each instruction can do, said once: inversion lemmas for the micro-steps, one for each
instruction's next state, and the lemma that reduces a property of every step to the steps that are indivisible.
-/

namespace Sys2Proof.Machine

/-! ### Micro-steps -/

theorem initPh0_ok {ch : Nat} {lp : Bool} {f f' : Focus} {p : Option Pending} :
    initPh0 ch lp f = .ok (f', p) ↔ f.c.initialized = false ∧
      f' = ⟨{ f.c.idleTransceiver with initialized := true, lp := lp }, f.g.respond .init ch .ok 1 []⟩ ∧ p = none := by
  unfold initPh0
  by_cases h : f.c.initialized <;> simp [h, Focus.answer_ok]

theorem initPh0_error {ch : Nat} {lp : Bool} {f : Focus} {r : FaultReason} :
    initPh0 ch lp f = .error r ↔ f.c.initialized = true ∧ r = .reinit := by
  unfold initPh0
  by_cases h : f.c.initialized <;> simp [h, eq_comm (a := r)]

theorem attachPh0_ok {ch : Nat} {w r : Bool} {f f' : Focus} {p : Option Pending}
    (h : attachPh0 ch w r f = .ok (f', p)) :
    p = none ∧
      ((f.c.initialized = false ∧ f' = ⟨f.c, f.g.respond .attach ch .notInitialized 0 []⟩) ∨
        (f.c.initialized = true ∧ f.c.wqAttached = false ∧ f.c.rqAttached = false ∧
          f' = ⟨{ f.c with wqAttached := w, rqAttached := r }, f.g.respond .attach ch .ok 1 []⟩)) := by
  unfold attachPh0 at h
  by_cases hi : f.c.initialized <;> by_cases hw : f.c.wqAttached <;> by_cases hr : f.c.rqAttached <;>
    simp [hi, hw, hr, Focus.answer_ok] at h <;> simp [h, hi, hw, hr]

theorem attachPh0_error {ch : Nat} {w r : Bool} {f : Focus} {why : FaultReason} :
    attachPh0 ch w r f = .error why ↔
      f.c.initialized = true ∧ (f.c.wqAttached = true ∨ f.c.rqAttached = true) ∧ why = .reattach := by
  unfold attachPh0
  by_cases hi : f.c.initialized <;> by_cases hw : f.c.wqAttached <;> by_cases hr : f.c.rqAttached <;>
    simp [hi, hw, hr, eq_comm (a := why)]

theorem setcbPh0_ok {ch : Nat} {en : Bool} {ctx : BitVec 16} {f f' : Focus} {p : Option Pending}
    (h : setcbPh0 ch en ctx f = .ok (f', p)) :
    p = none ∧
      ((f.c.initialized = false ∧ f' = ⟨f.c, f.g.respond .setcb ch .notInitialized 0 []⟩) ∨
        (f.c.initialized = true ∧ f' = ⟨{ f.c with cbEn := en, cbCtx := ctx }, f.g.respond .setcb ch .ok 1 []⟩)) := by
  unfold setcbPh0 at h
  by_cases hi : f.c.initialized <;> simp [hi, Focus.answer_ok] at h <;> simp [h, hi]

theorem setcbPh0_ne_error (ch : Nat) (en : Bool) (ctx : BitVec 16) (f : Focus) (r : FaultReason) :
    setcbPh0 ch en ctx f ≠ .error r := by
  unfold setcbPh0; split <;> simp

/-- ENQUEUE `ph0` ends with a response, nothing pushed, or it pushes at least one byte and goes on. -/
theorem enqueuePh0_ok {ch : Nat} {bs : List Byte} {f f' : Focus} {p : Option Pending}
    (h : enqueuePh0 ch bs f = .ok (f', p)) :
    (p = none ∧ f'.c = f.c ∧ ∃ st, f'.g = f.g.respond .enqueue ch st 0 []) ∧
        (f.c.initialized = false ∨ f.c.wqAttached = false ∨ (f.c.wq.push bs).1 = 0) ∨
      f.c.initialized = true ∧ f.c.wqAttached = true ∧ (f.c.wq.push bs).1 ≠ 0 ∧
        f' = ⟨{ f.c with wq := (f.c.wq.push bs).2 }, f.g⟩ ∧
        p = some (.enqueuePh1 (f.c.wq.push bs).1 bs.length) := by
  unfold enqueuePh0 at h
  by_cases hi : f.c.initialized
  · by_cases hw : f.c.wqAttached
    · by_cases hk : (f.c.wq.push bs).1 = 0
      · left
        rw [if_neg (by simp [hi]), if_neg (by simp [hw])] at h
        simp only [hk, if_true, Focus.answer_ok] at h
        have hnone : (f.c.wq.push bs).2 = f.c.wq := by
          have : bs.take (min bs.length (f.c.wq.cap - f.c.wq.data.length)) = [] := by
            rw [ByteQueue.push_fst] at hk; rw [hk]; rfl
          show ({ f.c.wq with data := _ } : ByteQueue) = _
          rw [this, List.append_nil]
        refine ⟨⟨h.2, ?_, _, by rw [h.1]⟩, .inr (.inr hk)⟩
        rw [h.1]; simp [hnone]
      · right
        rw [if_neg (by simp [hi]), if_neg (by simp [hw])] at h
        simp only [hk, if_false, Except.ok.injEq, Prod.mk.injEq] at h
        exact ⟨hi, hw, hk, h.1.symm, h.2.symm⟩
    · left
      simp only [Bool.not_eq_true] at hw
      simp [hi, hw, Focus.answer_ok] at h
      exact ⟨⟨h.2, by rw [h.1], _, by rw [h.1]⟩, .inr (.inl hw)⟩
  · left
    simp only [Bool.not_eq_true] at hi
    simp [hi, Focus.answer_ok] at h
    exact ⟨⟨h.2, by rw [h.1], _, by rw [h.1]⟩, .inl hi⟩

theorem enqueuePh0_ne_error (ch : Nat) (bs : List Byte) (f : Focus) (r : FaultReason) :
    enqueuePh0 ch bs f ≠ .error r := by
  unfold enqueuePh0
  split
  · simp
  · split
    · simp
    · by_cases hk : (f.c.wq.push bs).1 = 0 <;> simp only [hk, if_true, if_false] <;> simp

theorem enqueuePh1_ok {k n : Nat} {f f' : Focus} {p : Option Pending} :
    enqueuePh1 k n f = .ok (f', p) ↔ p = some (.enqueuePh2 k n) ∧
      ((f.c.writeState = .idle ∧ f.c.wt.registered = false ∧
          f' = ⟨{ f.c with writeState := .draining, wt := ⟨true, .inf⟩ }, f.g.acquireWrite f.c.lp⟩) ∨
        (f.c.writeState = .draining ∧ f.c.wt.registered = true ∧ f' = ⟨{ f.c with wt := ⟨true, .inf⟩ }, f.g⟩)) := by
  unfold enqueuePh1
  cases hw : f.c.writeState <;> cases hr : f.c.wt.registered <;>
    simp [Slot.register, Slot.reschedule, hr, eq_comm (a := f'), eq_comm (a := p), and_comm]

theorem enqueuePh1_error {k n : Nat} {f : Focus} {r : FaultReason} :
    enqueuePh1 k n f = .error r ↔ r = .schedBadSlot ∧ f.c.wt.registered = (f.c.writeState == .idle) := by
  unfold enqueuePh1
  cases hw : f.c.writeState <;> cases hr : f.c.wt.registered <;>
    simp [Slot.register, Slot.reschedule, hr, eq_comm (a := r)]

theorem taskwPh1_ok {ch : Nat} {f f' : Focus} {p : Option Pending} (h : taskwPh1 ch f = .ok (f', p)) :
    p = none ∧ f.c.wt.registered = true ∧ f'.c = { f.c with wt := ⟨false, Config.freeDue f.g.draws⟩ } ∧
      ∃ g, f.g.releaseWrite f.c.lp = .ok g ∧
        f'.g = { g with
          draws := f.g.draws + 1
          events := f.g.events ++ if f.c.cbEn then [⟨ch, .writeDone, f.c.cbCtx⟩] else [] } := by
  unfold taskwPh1 at h
  cases hu : f.unregisterWt with
  | error r => simp [hu] at h
  | ok f1 =>
    obtain ⟨hreg, rfl⟩ := Focus.unregisterWt_ok.1 hu
    simp only [hu] at h
    cases hlp : f.c.lp with
    | true =>
      by_cases h0 : f.g.dsCount = 0
      · simp [hlp, Shared.allowDs, h0] at h
      · simp [hlp, Shared.allowDs, h0] at h
        refine ⟨h.2.symm, hreg, by rw [← h.1]; simp [hlp], _, by simp [Shared.allowDs, h0]; rfl, ?_⟩
        rw [← h.1, Focus.report_g]
    | false =>
      by_cases h0 : f.g.hfCount = 0
      · simp [hlp, Shared.disableHf, h0] at h
      · simp [hlp, Shared.disableHf, h0] at h
        refine ⟨h.2.symm, hreg, by rw [← h.1]; simp [hlp], _, by simp [Shared.disableHf, h0]; rfl, ?_⟩
        rw [← h.1, Focus.report_g]

theorem taskwPh1_error {ch : Nat} {f : Focus} {r : FaultReason} (h : taskwPh1 ch f = .error r) :
    (f.c.wt.registered = false ∧ r = .schedBadSlot) ∨
      (f.c.wt.registered = true ∧ r = .pgUnderflow ∧ (if f.c.lp then f.g.dsCount else f.g.hfCount) = 0) := by
  unfold taskwPh1 at h
  cases hu : f.unregisterWt with
  | error r' =>
    simp only [hu, Except.error.injEq] at h
    subst h
    exact .inl (Focus.unregisterWt_error.1 hu)
  | ok f1 =>
    obtain ⟨hreg, rfl⟩ := Focus.unregisterWt_ok.1 hu
    right
    simp only [hu] at h
    cases hlp : f.c.lp with
    | true =>
      by_cases h0 : f.g.dsCount = 0
      · exact ⟨hreg, by simpa [hlp, Shared.allowDs, h0, eq_comm (a := r)] using h, by simpa using h0⟩
      · simp [hlp, Shared.allowDs, h0] at h
    | false =>
      by_cases h0 : f.g.hfCount = 0
      · exact ⟨hreg, by simpa [hlp, Shared.disableHf, h0, eq_comm (a := r)] using h, by simpa using h0⟩
      · simp [hlp, Shared.disableHf, h0] at h

theorem armPh0_ok {ch timeout : Nat} {f f' : Focus} {p : Option Pending}
    (h : armPh0 ch timeout f = .ok (f', p)) :
    (p = none ∧ f'.c = f.c ∧ ∃ st, f'.g = f.g.respond .arm ch st 0 []) ∨
      f.c.initialized = true ∧ f.c.rqAttached = true ∧ f.c.readState = .idle ∧ f.c.rt.registered = false ∧
        f' = ⟨{ f.c with readTimeout := timeout, rt := ⟨true, .ticks (f.g.now + timeout)⟩ }, f.g⟩ ∧
        p = some .armPh1 := by
  unfold armPh0 at h
  cases hi : f.c.initialized <;> cases hr : f.c.rqAttached <;> cases hs : f.c.readState <;>
    cases ht : f.c.rt.registered <;>
    simp only [hi, hr, hs, ht, Bool.not_true, Bool.not_false, Bool.false_eq_true, if_true, if_false, Slot.register,
      Focus.answer_ok, Except.ok.injEq, Prod.mk.injEq, reduceCtorEq] at h
  all_goals first
    | exact .inl ⟨h.2, by rw [h.1], _, by rw [h.1]⟩
    | exact .inr ⟨rfl, rfl, rfl, rfl, by rw [← h.1]; simp [hi, hr, hs], h.2.symm⟩

theorem armPh0_error {ch timeout : Nat} {f : Focus} {r : FaultReason} (h : armPh0 ch timeout f = .error r) :
    r = .schedBadSlot ∧ f.c.readState = .idle ∧ f.c.rt.registered = true := by
  unfold armPh0 at h
  cases hi : f.c.initialized <;> cases hr : f.c.rqAttached <;> cases hs : f.c.readState <;>
    cases ht : f.c.rt.registered <;>
    simp [hi, hr, hs, ht, Slot.register] at h <;> simp [h]

theorem cancelPh0_ok {ch : Nat} {f f' : Focus} {p : Option Pending} :
    cancelPh0 ch f = .ok (f', p) ↔
      (f.c.readState = .idle ∧ f' = ⟨f.c, f.g.respond .cancel ch .notArmed 0 []⟩ ∧ p = none) ∨
        (f.c.readState = .armed ∧ f' = ⟨{ f.c with readState := .idle }, f.g⟩ ∧ p = some .cancelPh1) := by
  unfold cancelPh0
  cases hs : f.c.readState <;> simp [Focus.answer_ok, eq_comm (a := f'), eq_comm (a := p)]

theorem cancelPh0_ne_error (ch : Nat) (f : Focus) (r : FaultReason) : cancelPh0 ch f ≠ .error r := by
  unfold cancelPh0; cases f.c.readState <;> simp

theorem cancelPh2_ok {ch : Nat} {f f' : Focus} {p : Option Pending} :
    cancelPh2 ch f = .ok (f', p) ↔ p = none ∧ f.g.hfCount ≠ 0 ∧ f.c.rt.registered = true ∧
      f' = ⟨{ f.c with rt := ⟨false, Config.freeDue f.g.draws⟩ },
        { f.g with
          hfCount := f.g.hfCount - 1
          pglog := f.g.pglog ++ [.disHf]
          draws := f.g.draws + 1
          resp := f.g.resp ++ [⟨.cancel, ch, .ok, 0, []⟩] }⟩ := by
  unfold cancelPh2
  by_cases h0 : f.g.hfCount = 0
  · simp [Shared.disableHf, h0]
  · by_cases hr : f.c.rt.registered
    · simp [Shared.disableHf, h0, Focus.unregisterRt, Slot.unregister, hr, Focus.answer_ok, Shared.respond, and_comm]
    · simp [Shared.disableHf, h0, Focus.unregisterRt, Slot.unregister, hr]

theorem cancelPh2_error {ch : Nat} {f : Focus} {r : FaultReason} (h : cancelPh2 ch f = .error r) :
    (f.g.hfCount = 0 ∧ r = .pgUnderflow) ∨ (f.c.rt.registered = false ∧ r = .schedBadSlot) := by
  unfold cancelPh2 at h
  by_cases h0 : f.g.hfCount = 0
  · simp [Shared.disableHf, h0] at h
    exact .inl ⟨h0, h.symm⟩
  · by_cases hr : f.c.rt.registered
    · simp [Shared.disableHf, h0, Focus.unregisterRt, Slot.unregister, hr] at h
    · simp [Shared.disableHf, h0, Focus.unregisterRt, Slot.unregister, hr] at h
      exact .inr ⟨by simpa using hr, h.symm⟩

theorem drainPh0_ok {ch max : Nat} {f f' : Focus} {p : Option Pending} :
    drainPh0 ch max f = .ok (f', p) ↔ p = none ∧
      ((f.c.readState = .idle ∧ f' = ⟨f.c, f.g.respond .drain ch .notArmed 0 []⟩) ∨
        (f.c.readState = .armed ∧
          f' = ⟨{ f.c with rq := (f.c.rq.pop max).2 },
            f.g.respond .drain ch .ok (f.c.rq.pop max).1.length (f.c.rq.pop max).1⟩)) := by
  unfold drainPh0
  cases hs : f.c.readState <;> simp [Focus.answer_ok, and_comm]

theorem drainPh0_ne_error (ch max : Nat) (f : Focus) (r : FaultReason) : drainPh0 ch max f ≠ .error r := by
  unfold drainPh0; cases f.c.readState <;> simp

theorem taskrPh0_ok {f f' : Focus} {p : Option Pending} :
    taskrPh0 f = .ok (f', p) ↔ p = some .taskrPh1 ∧ f.c.rt.registered = true ∧
      f' = ⟨{ f.c with rt := ⟨true, .ticks (f.g.now + f.c.readTimeout)⟩ }, f.g⟩ := by
  unfold taskrPh0
  cases hr : f.c.rt.registered <;> simp [Slot.rescheduleRelativeNow, hr, eq_comm, and_comm]

theorem taskrPh0_error {f : Focus} {r : FaultReason} :
    taskrPh0 f = .error r ↔ f.c.rt.registered = false ∧ r = .schedBadSlot := by
  unfold taskrPh0
  cases hr : f.c.rt.registered <;> simp [Slot.rescheduleRelativeNow, hr, eq_comm]

/-! ### The multiplexer -/

/-- Sub-step 1 does nothing, sends the oldest byte, or switches triggers (43_interrupt_mux.md R171). -/
theorem irqTransmitEmpty_cases (f : Focus) :
    (f.c.txeRequest = false ∧ irqTransmitEmpty f = f) ∨
      (f.c.txeRequest = true ∧ ∃ b rest, f.c.wq.data = b :: rest ∧
        irqTransmitEmpty f = ⟨({ f.c with wq := { f.c.wq with data := rest } } : Channel).writeTdr b, f.g⟩) ∨
      (f.c.txeRequest = true ∧ f.c.wq.data = [] ∧
        irqTransmitEmpty f = ⟨{ f.c with ier := { f.c.ier with txeie := false, tcie := true } }, f.g⟩) := by
  unfold irqTransmitEmpty
  cases hq : f.c.txeRequest with
  | false => exact .inl ⟨rfl, by simp⟩
  | true =>
    right
    rcases f.c.wq.popOne_cases with ⟨hd, e⟩ | ⟨b, rest, hd, e⟩
    · exact .inr ⟨rfl, hd, by simp [e, Channel.setTxeie, Channel.setTcie]⟩
    · exact .inl ⟨rfl, b, rest, hd, by simp [e]⟩

theorem irqTransmissionComplete_ok {f f' : Focus} :
    irqTransmissionComplete f = .ok f' ↔
      (f.c.tcRequest = false ∧ f' = f) ∨
        (f.c.tcRequest = true ∧ f.c.wt.registered = true ∧
          f' = ⟨{ f.c with ier := { f.c.ier with tcie := false }, wt := ⟨true, .ticks f.g.now⟩ }, f.g⟩) := by
  unfold irqTransmissionComplete
  cases hq : f.c.tcRequest <;> cases hr : f.c.wt.registered <;>
    simp [Slot.runNow, hr, Channel.setTcie, eq_comm]

theorem irqTransmissionComplete_error {f : Focus} {r : FaultReason} :
    irqTransmissionComplete f = .error r ↔
      f.c.tcRequest = true ∧ f.c.wt.registered = false ∧ r = .schedBadSlot := by
  unfold irqTransmissionComplete
  cases hq : f.c.tcRequest <;> cases hr : f.c.wt.registered <;> simp [Slot.runNow, hr, eq_comm]

theorem irqReceiveNotEmpty_ok {f f' : Focus} :
    irqReceiveNotEmpty f = .ok f' ↔
      (f.c.rxneRequest = false ∧ f' = f) ∨
        (f.c.rxneRequest = true ∧ f.c.rt.registered = true ∧
          f' = ⟨{ f.c with
            isr := { f.c.isr with rxne := false }
            rq := (f.c.rq.pushOne f.c.rdr).2
            rt := ⟨true, .ticks f.g.now⟩ }, f.g⟩) := by
  unfold irqReceiveNotEmpty
  cases hq : f.c.rxneRequest <;> cases hr : f.c.rt.registered <;>
    simp [Slot.runNow, hr, Channel.readRdr, eq_comm]

theorem irqReceiveNotEmpty_error {f : Focus} {r : FaultReason} :
    irqReceiveNotEmpty f = .error r ↔
      f.c.rxneRequest = true ∧ f.c.rt.registered = false ∧ r = .schedBadSlot := by
  unfold irqReceiveNotEmpty
  cases hq : f.c.rxneRequest <;> cases hr : f.c.rt.registered <;> simp [Slot.runNow, hr, Channel.readRdr, eq_comm]

theorem multiplexer_ok {f f' : Focus} :
    multiplexer f = .ok f' ↔
      ∃ f1, irqTransmissionComplete (irqTransmitEmpty f) = .ok f1 ∧ irqReceiveNotEmpty f1 = .ok f' := by
  unfold multiplexer
  cases irqTransmissionComplete (irqTransmitEmpty f) <;> simp

theorem multiplexer_error {f : Focus} {r : FaultReason} :
    multiplexer f = .error r ↔
      irqTransmissionComplete (irqTransmitEmpty f) = .error r ∨
        ∃ f1, irqTransmissionComplete (irqTransmitEmpty f) = .ok f1 ∧ irqReceiveNotEmpty f1 = .error r := by
  unfold multiplexer
  cases irqTransmissionComplete (irqTransmitEmpty f) <;> simp

/-- With the request line low the multiplexer changes nothing (43_interrupt_mux.md R170). -/
theorem multiplexer_spurious {f : Focus} (h : f.c.irqLine = false) : multiplexer f = .ok f := by
  simp only [Channel.irqLine, Bool.or_eq_false_iff] at h
  have h1 : irqTransmitEmpty f = f := by simp [irqTransmitEmpty, h.1.1]
  simp [multiplexer, h1, irqTransmissionComplete, irqReceiveNotEmpty, h.1.2, h.2]

/-! ### COSTEP and the operations of more than one micro-step -/

theorem State.runPending_next {s t : State} :
    s.runPending = .next t ↔ ∃ ch q c f p, s.coop = some ⟨ch, q⟩ ∧ s.chans[ch]? = some c ∧
      runMicro q ch ⟨c, s.shared⟩ = .ok (f, p) ∧ t = { s.put ch f with coop := p.map fun q => ⟨ch, q⟩ } := by
  unfold State.runPending
  cases hc : s.coop with
  | none => simp
  | some co =>
    obtain ⟨ch, q⟩ := co
    simp only [State.onChannel_next, State.finishMicro_next]
    constructor
    · rintro ⟨c, h, f, p, hm, ht⟩; exact ⟨ch, q, c, f, p, rfl, h, hm, ht⟩
    · rintro ⟨_, _, c, f, p, e, h, hm, ht⟩
      cases e
      exact ⟨c, h, f, p, hm, ht⟩

theorem State.runPending_fault {s : State} {r : Fault} :
    s.runPending = .fault r ↔ ∃ ch q c why, s.coop = some ⟨ch, q⟩ ∧ s.chans[ch]? = some c ∧
      runMicro q ch ⟨c, s.shared⟩ = .error why ∧ r = .raised why { s with fault := some why } := by
  constructor
  · intro h
    unfold State.runPending at h
    cases hc : s.coop with
    | none => simp [hc] at h
    | some co =>
      simp only [hc, State.onChannel_fault, State.finishMicro_fault] at h
      obtain ⟨c, h, why, hm, ht⟩ := h
      exact ⟨co.ch, co.next, c, why, rfl, h, hm, ht⟩
  · rintro ⟨ch, q, c, why, hc, h, hm, rfl⟩
    simp [State.runPending, hc, State.onChannel_fault, State.finishMicro_fault, h, hm]

/-- A property that every micro-step keeps is kept by a run of micro-steps. -/
theorem State.runToEnd_keeps {P : State → Prop} (hstep : ∀ s t, s.runPending = .next t → P s → P t) :
    ∀ n s t, State.runToEnd n s = .next t → P s → P t
  | 0, s, t, h, hp => by cases h; exact hp
  | n + 1, s, t, h, hp => by
    unfold State.runToEnd at h
    cases hc : s.coop with
    | none => simp only [hc] at h; cases h; exact hp
    | some co =>
      simp only [hc] at h
      cases hr : s.runPending with
      | next u => rw [hr] at h; exact State.runToEnd_keeps hstep n u t h (hstep s u hr hp)
      | fault r => rw [hr] at h; cases h
      | refused r => rw [hr] at h; cases h

/-- A run of micro-steps that faults does so in one of them, from a state with every property they keep. -/
theorem State.runToEnd_fault {P : State → Prop} (hstep : ∀ s t, s.runPending = .next t → P s → P t) :
    ∀ n s r, State.runToEnd n s = .fault r → P s → ∃ u, P u ∧ u.runPending = .fault r
  | 0, s, r, h, _ => by cases h
  | n + 1, s, r, h, hp => by
    unfold State.runToEnd at h
    cases hc : s.coop with
    | none => simp only [hc] at h; cases h
    | some co =>
      simp only [hc] at h
      cases hr : s.runPending with
      | next u => rw [hr] at h; exact State.runToEnd_fault hstep n u r h (hstep s u hr hp)
      | fault r' => rw [hr] at h; cases h; exact ⟨s, hp, hr⟩
      | refused r' => rw [hr] at h; cases h

theorem State.startOperation_next {s t : State} {ch : Nat} {p : Bool} {m : MicroResult} :
    s.startOperation ch p m = .next t ↔
      ∃ u, s.finishMicro ch m = .next u ∧ if p then t = u else State.runToEnd 2 u = .next t := by
  unfold State.startOperation
  cases s.finishMicro ch m <;> cases p <;> simp [eq_comm]

theorem State.startOperation_fault {s : State} {ch : Nat} {p : Bool} {m : MicroResult} {r : Fault} :
    s.startOperation ch p m = .fault r ↔
      s.finishMicro ch m = .fault r ∨ ∃ u, s.finishMicro ch m = .next u ∧ p = false ∧ State.runToEnd 2 u = .fault r := by
  unfold State.startOperation
  cases s.finishMicro ch m <;> cases p <;> simp

/-- With P = 1 an operation's start is its `ph0`. -/
@[simp] theorem State.startOperation_preempt (s : State) (ch : Nat) (m : MicroResult) :
    s.startOperation ch true m = s.finishMicro ch m := by
  unfold State.startOperation; cases s.finishMicro ch m <;> simp

/-! ### The next state of each indivisible instruction -/

/-- The first micro-step of a cooperative instruction, where it is enabled in `f` (30_encoding.md R118 for the tasks). -/
def firstMicro (i : Instr) (f : Focus) : Option MicroResult :=
  match i with
  | .init ch lp => some (initPh0 ch lp f)
  | .attach ch w r => some (attachPh0 ch w r f)
  | .setcb ch en ctx => some (setcbPh0 ch en ctx f)
  | .enqueue ch _ bs => some (enqueuePh0 ch bs f)
  | .arm ch _ timeout => some (armPh0 ch timeout f)
  | .cancel ch _ => some (cancelPh0 ch f)
  | .drain ch max => some (drainPh0 ch max f)
  | .taskw _ _ => if f.c.wt.ready f.g.now then some (taskwPh0 f) else none
  | .taskr _ _ => if f.c.rt.ready f.g.now then some (taskrPh0 f) else none
  | .irq _ | .hwload _ | .hwdone _ | .hwrx _ _ | .tick _ | .costep => none

/-- An indivisible step outside cooperative context, where it is enabled in `f`. -/
def soleStep (i : Instr) (f : Focus) : Option (Except FaultReason Focus) :=
  match i with
  | .irq _ => some (multiplexer f)
  | .hwload _ => if f.c.initialized && !f.c.isr.txe && !f.c.tsrBusy then some (.ok ⟨f.c.loadShift, f.g⟩) else none
  | .hwdone _ => if f.c.initialized && f.c.tsrBusy then some (.ok ⟨f.c.finishShift, f.g⟩) else none
  | .hwrx _ b => if f.c.initialized then some (.ok ⟨f.c.receive b, f.g⟩) else none
  | .init _ _ | .attach _ _ _ | .setcb _ _ _ | .enqueue _ _ _ | .arm _ _ _ | .cancel _ _ | .drain _ _
  | .taskw _ _ | .taskr _ _ | .tick _ | .costep => none

/-- The four ways an indivisible instruction has a next state: a cooperative operation's first micro-step, a step on a
channel outside cooperative context, the next micro-step of the operation in flight, and time. -/
theorem exec_preemptible_next {i : Instr} {s t : State} (h : exec i.preemptible s = .next t) :
    s.fault = none ∧
      ((∃ ch c f p, s.coop = none ∧ i.channel? = some ch ∧ s.chans[ch]? = some c ∧
          firstMicro i ⟨c, s.shared⟩ = some (.ok (f, p)) ∧
          t = { s.put ch f with coop := p.map fun q => ⟨ch, q⟩ }) ∨
        (∃ ch c f, i.channel? = some ch ∧ s.chans[ch]? = some c ∧ soleStep i ⟨c, s.shared⟩ = some (.ok f) ∧
          t = s.put ch f) ∨
        (i = .costep ∧ s.runPending = .next t) ∨
        (∃ dt, i = .tick dt ∧ t = { s with shared := { s.shared with now := s.shared.now + dt } })) := by
  cases i <;>
    simp only [Instr.preemptible, exec, execInit, execAttach, execSetcb, execEnqueue, execArm, execCancel, execDrain, execTaskw,
      execTaskr, execIrq, execHwload, execHwdone, execHwrx, execTick, execCostep, State.cooperative_next,
      State.independent_next, State.unfaulted_next, requires_next, State.startOperation_preempt,
      State.finishMicro_next, State.finishStep_next] at h
  case tick dt => exact ⟨h.1, .inr (.inr (.inr ⟨dt, rfl, by simpa [eq_comm] using h.2⟩))⟩
  case costep => exact ⟨h.1, .inr (.inr (.inl ⟨rfl, h.2⟩))⟩
  case irq ch =>
    obtain ⟨hf, c, hc, f, hm, rfl⟩ := h
    exact ⟨hf, .inr (.inl ⟨ch, c, f, rfl, hc, by simp [soleStep, hm], rfl⟩)⟩
  case hwload ch =>
    obtain ⟨hf, c, hc, hq, f, hm, rfl⟩ := h
    exact ⟨hf, .inr (.inl ⟨ch, c, f, rfl, hc, by simp [soleStep, hq, hm], rfl⟩)⟩
  case hwdone ch =>
    obtain ⟨hf, c, hc, hq, f, hm, rfl⟩ := h
    exact ⟨hf, .inr (.inl ⟨ch, c, f, rfl, hc, by simp [soleStep, hq, hm], rfl⟩)⟩
  case hwrx ch b =>
    obtain ⟨hf, c, hc, hq, f, hm, rfl⟩ := h
    exact ⟨hf, .inr (.inl ⟨ch, c, f, rfl, hc, by simp [soleStep, hq, hm], rfl⟩)⟩
  case taskw ch p =>
    obtain ⟨hf, hco, c, hc, hq, f, p', hm, rfl⟩ := h
    exact ⟨hf, .inl ⟨ch, c, f, p', hco, rfl, hc, by simp [firstMicro, hq, hm], rfl⟩⟩
  case taskr ch p =>
    obtain ⟨hf, hco, c, hc, hq, f, p', hm, rfl⟩ := h
    exact ⟨hf, .inl ⟨ch, c, f, p', hco, rfl, hc, by simp [firstMicro, hq, hm], rfl⟩⟩
  all_goals
    obtain ⟨hf, hco, c, hc, f, p', hm, rfl⟩ := h
    exact ⟨hf, .inl ⟨_, c, f, p', hco, rfl, hc, by simp [firstMicro, hm], rfl⟩⟩

/-- Every step is its preemptible form, followed, where P = 0, by the micro-steps that remain. -/
theorem exec_next_split {i : Instr} {s t : State} (h : exec i s = .next t) :
    ∃ u, exec i.preemptible s = .next u ∧ (t = u ∨ State.runToEnd 2 u = .next t) := by
  cases i
  case enqueue ch p bs =>
    simp only [Instr.preemptible, exec, execEnqueue, State.cooperative_next, State.startOperation_next] at h ⊢
    obtain ⟨hf, hco, c, hc, u, hu, ht⟩ := h
    exact ⟨u, ⟨hf, hco, c, hc, u, hu, by simp⟩, by cases p <;> simp_all⟩
  case arm ch p timeout =>
    simp only [Instr.preemptible, exec, execArm, State.cooperative_next, State.startOperation_next] at h ⊢
    obtain ⟨hf, hco, c, hc, u, hu, ht⟩ := h
    exact ⟨u, ⟨hf, hco, c, hc, u, hu, by simp⟩, by cases p <;> simp_all⟩
  case cancel ch p =>
    simp only [Instr.preemptible, exec, execCancel, State.cooperative_next, State.startOperation_next] at h ⊢
    obtain ⟨hf, hco, c, hc, u, hu, ht⟩ := h
    exact ⟨u, ⟨hf, hco, c, hc, u, hu, by simp⟩, by cases p <;> simp_all⟩
  case taskw ch p =>
    simp only [Instr.preemptible, exec, execTaskw, State.cooperative_next, requires_next, State.startOperation_next] at h ⊢
    obtain ⟨hf, hco, c, hc, hq, u, hu, ht⟩ := h
    exact ⟨u, ⟨hf, hco, c, hc, hq, u, hu, by simp⟩, by cases p <;> simp_all⟩
  case taskr ch p =>
    simp only [Instr.preemptible, exec, execTaskr, State.cooperative_next, requires_next, State.startOperation_next] at h ⊢
    obtain ⟨hf, hco, c, hc, hq, u, hu, ht⟩ := h
    exact ⟨u, ⟨hf, hco, c, hc, hq, u, hu, by simp⟩, by cases p <;> simp_all⟩
  all_goals exact ⟨t, h, .inl rfl⟩

/-- A property of states that every indivisible instruction and every micro-step keep is kept by every instruction. -/
theorem exec_keeps {P : State → Prop} {i : Instr} {s t : State} (h : exec i s = .next t)
    (hfirst : ∀ u, exec i.preemptible s = .next u → P s → P u)
    (hmicro : ∀ s t, s.runPending = .next t → P s → P t) (hp : P s) : P t := by
  obtain ⟨u, hu, rfl | ht⟩ := exec_next_split h
  · exact hfirst _ hu hp
  · exact State.runToEnd_keeps hmicro 2 u t ht (hfirst u hu hp)

end Sys2Proof.Machine
end

