-- ==== Sys2Proof/Laws/PerInstr.lean ====
section
/-!
SUPPORT. Statements made instruction by instruction. `EncodeLength`: a well-formed instruction is encoded in as many words
as its first word announces (30_encoding.md R117).
-/

namespace Sys2Proof.Laws.EncodeLength

/-- 30_encoding.md R117: the first word of a stimulus tells its length. -/
def Statement (i : Instr) : Prop :=
  ∀ nch : Nat, i.wf nch = true → ∃ w ws, encode i = w :: ws ∧ (encode i).length = stimulusLength w

/-- A stimulus of one word of an operation other than ENQUEUE. -/
theorem one_word (op : Op) (ch : Nat) (p : Bool) (arg : BitVec 23) (h : op.code ≠ Op.enqueue.code) :
    [stimulusWord op ch p arg].length = stimulusLength (stimulusWord op ch p arg) := by
  simp [stimulusLength, h]

theorem init (ch : Nat) (lp : Bool) : Statement (.init ch lp) :=
  fun _ _ => ⟨_, _, rfl, one_word .init ch _ _ (by decide)⟩

theorem attach (ch : Nat) (w r : Bool) : Statement (.attach ch w r) :=
  fun _ _ => ⟨_, _, rfl, one_word .attach ch _ _ (by decide)⟩

theorem setcb (ch : Nat) (en : Bool) (ctx : BitVec 16) : Statement (.setcb ch en ctx) :=
  fun _ _ => ⟨_, _, rfl, one_word .setcb ch _ _ (by decide)⟩

theorem enqueue (ch : Nat) (p : Bool) (bs : List Byte) : Statement (.enqueue ch p bs) := by
  intro nch h
  refine ⟨_, _, rfl, ?_⟩
  have hn : bs.length ≤ 255 := by
    simp only [Instr.wf, payloadOk, Bool.and_eq_true, decide_eq_true_eq] at h
    exact h.2
  simp [encode, stimulusLength, countField_stimulusWord _ _ _ _ hn, Nat.add_comm]

theorem arm (ch : Nat) (p : Bool) (timeout : Nat) : Statement (.arm ch p timeout) :=
  fun _ _ => ⟨_, _, rfl, one_word .arm ch _ _ (by decide)⟩

theorem cancel (ch : Nat) (p : Bool) : Statement (.cancel ch p) :=
  fun _ _ => ⟨_, _, rfl, one_word .cancel ch _ _ (by decide)⟩

theorem drain (ch max : Nat) : Statement (.drain ch max) :=
  fun _ _ => ⟨_, _, rfl, one_word .drain ch _ _ (by decide)⟩

theorem taskw (ch : Nat) (p : Bool) : Statement (.taskw ch p) :=
  fun _ _ => ⟨_, _, rfl, one_word .taskw ch _ _ (by decide)⟩

theorem taskr (ch : Nat) (p : Bool) : Statement (.taskr ch p) :=
  fun _ _ => ⟨_, _, rfl, one_word .taskr ch _ _ (by decide)⟩

theorem irq (ch : Nat) : Statement (.irq ch) :=
  fun _ _ => ⟨_, _, rfl, one_word .irq ch _ _ (by decide)⟩

theorem hwload (ch : Nat) : Statement (.hwload ch) :=
  fun _ _ => ⟨_, _, rfl, one_word .hwload ch _ _ (by decide)⟩

theorem hwdone (ch : Nat) : Statement (.hwdone ch) :=
  fun _ _ => ⟨_, _, rfl, one_word .hwdone ch _ _ (by decide)⟩

theorem hwrx (ch : Nat) (b : Byte) : Statement (.hwrx ch b) :=
  fun _ _ => ⟨_, _, rfl, one_word .hwrx ch _ _ (by decide)⟩

theorem tick (dt : Nat) : Statement (.tick dt) :=
  fun _ _ => ⟨_, _, rfl, one_word .tick 0 _ _ (by decide)⟩

theorem costep : Statement .costep :=
  fun _ _ => ⟨_, _, rfl, one_word .costep 0 _ _ (by decide)⟩

end Sys2Proof.Laws.EncodeLength
end

