-- ==== Sys2Proof/Machine/Assembler.lean ====
section
/-!
DEFINITION. The stimulus script of 30_encoding.md R120, one stimulus or pseudo-instruction (R121) per line, read as
instructions. The spec's grammar leaves spacing, the case of letters and repeated commas open (log 16).
-/

namespace Sys2Proof.Machine

/-- A line without its comment: everything from the first `;` is dropped. -/
def stripComment : List Char → List Char
  | [] => []
  | c :: cs => if c = ';' then [] else c :: stripComment cs

/-- The maximal runs of characters that are no `sep`, empty runs included; always at least one. -/
def splitAt (sep : Char → Bool) : List Char → List (List Char)
  | [] => [[]]
  | c :: cs =>
    match splitAt sep cs with
    | [] => [[c]]
    | w :: ws => if sep c then [] :: w :: ws else (c :: w) :: ws

/-- A space, a tab or a carriage return. -/
def isBlank (c : Char) : Bool := c = ' ' || c = '\t' || c = '\r'

/-- The words of a text between blanks. -/
def wordsOf (cs : List Char) : List (List Char) := (splitAt isBlank cs).filter fun w => !w.isEmpty

/-- The value of a hexadecimal digit. -/
def hexDigit (c : Char) : Option Nat :=
  if '0' ≤ c ∧ c ≤ '9' then some (c.toNat - 48)
  else if 'a' ≤ c ∧ c ≤ 'f' then some (c.toNat - 87)
  else if 'A' ≤ c ∧ c ≤ 'F' then some (c.toNat - 55)
  else none

/-- Digits in base `base`, most significant first, after the value `acc`. -/
def digits (base : Nat) (acc : Nat) : List Char → Option Nat
  | [] => some acc
  | c :: cs =>
    match hexDigit c with
    | some d => if d < base then digits base (acc * base + d) cs else none
    | none => none

/-- A number, decimal or `0x` hexadecimal. -/
def number : List Char → Option Nat
  | [] => none
  | '0' :: 'x' :: c :: cs => digits 16 0 (c :: cs)
  | cs => digits 10 0 cs

/-- All of a list of optional values, or none. -/
def allSome {α : Type} : List (Option α) → Option (List α)
  | [] => some []
  | none :: _ => none
  | some a :: rest => (allSome rest).map (a :: ·)

/-- The operands of a line: the numbers of each comma-separated group. -/
def operandGroups (cs : List Char) : Option (List (List Nat)) :=
  allSome ((splitAt (· = ',') cs).map fun group => allSome ((wordsOf group).map number))

/-- An operand that is one bit. -/
def bit (n : Nat) : Option Bool := if n = 0 then some false else if n = 1 then some true else none

/-- An operand of 8 bits. -/
def byte (n : Nat) : Option Byte := if n < 256 then some (BitVec.ofNat 8 n) else none

/-- An operand of 16 bits. -/
def half (n : Nat) : Option (BitVec 16) := if n < 65536 then some (BitVec.ofNat 16 n) else none

/-- The suffix `.P` (30_encoding.md R120) taken off a mnemonic. -/
def splitSuffix : List Char → List Char × Bool
  | [] => ([], false)
  | ['.', 'P'] => ([], true)
  | c :: cs => let (m, p) := splitSuffix cs; (c :: m, p)

/-- The instructions of a mnemonic with its operands (30_encoding.md R120, R121). -/
def assembleOperation (mnemonic : List Char) (p : Bool) (groups : List (List Nat)) : Option (List Instr) :=
  match String.ofList mnemonic, p, groups with
  | "INIT", false, [[ch], [lp]] => (bit lp).map fun lp => [.init ch lp]
  | "ATTACH", false, [[ch], [w], [r]] =>
    match bit w, bit r with
    | some w, some r => some [.attach ch w r]
    | _, _ => none
  | "SETCB", false, [[ch], [en], [ctx]] =>
    match bit en, half ctx with
    | some en, some ctx => some [.setcb ch en ctx]
    | _, _ => none
  | "ENQUEUE", p, [[ch], bs] => (allSome (bs.map byte)).map fun bs => [.enqueue ch p bs]
  | "ARM", p, [[ch], [timeout]] => some [.arm ch p timeout]
  | "CANCEL", p, [[ch]] => some [.cancel ch p]
  | "DRAIN", false, [[ch], [max]] => some [.drain ch max]
  | "TASKW", p, [[ch]] => some [.taskw ch p]
  | "TASKR", p, [[ch]] => some [.taskr ch p]
  | "IRQ", false, [[ch]] => some [.irq ch]
  | "HWLOAD", false, [[ch]] => some [.hwload ch]
  | "HWDONE", false, [[ch]] => some [.hwdone ch]
  | "HWRX", false, [[ch], [b]] => (byte b).map fun b => [.hwrx ch b]
  | "TICK", false, [[dt]] => some [.tick dt]
  | "COSTEP", false, [[]] => some [.costep]
  | "BRINGUP", false, [[ch], [lp], [ctx]] =>
    match bit lp, half ctx with
    | some lp, some ctx => some (Pseudo.expand (.bringup ch lp ctx))
    | _, _ => none
  | "TXBYTE", false, [[ch]] => some (Pseudo.expand (.txbyte ch))
  | "RXBYTE", false, [[ch], [b]] => (byte b).map fun b => Pseudo.expand (.rxbyte ch b)
  | "REARM", false, [[ch], [timeout]] => some (Pseudo.expand (.rearm ch timeout))
  | _, _, _ => none

/-- The blanks at the front of a text dropped. -/
def skipBlanks : List Char → List Char
  | [] => []
  | c :: cs => if isBlank c then skipBlanks cs else c :: cs

/-- The first word of a text, and what follows it. -/
def takeWord : List Char → List Char × List Char
  | [] => ([], [])
  | c :: cs => if isBlank c then ([], cs) else let (w, rest) := takeWord cs; (c :: w, rest)

/-- One line in a machine of `nch` channels: no instruction for an empty line, none at all where the line is no stimulus
or an operand does not fit its field. -/
def assembleLine (nch : Nat) (line : List Char) : Option (List Instr) :=
  match skipBlanks (stripComment line) with
  | [] => some []
  | cs =>
    let (word, rest) := takeWord cs
    let (mnemonic, p) := splitSuffix word
    match operandGroups rest with
    | none => none
    | some groups =>
      match assembleOperation mnemonic p groups with
      | some is => if is.all (Instr.wf nch) then some is else none
      | none => none

/-- A whole script, one stimulus per line. -/
def assemble (nch : Nat) (script : List Char) : Option (List Instr) :=
  (allSome ((splitAt (· = '\n') script).map (assembleLine nch))).map List.flatten

end Sys2Proof.Machine
end

