-- ==== Sys2Proof/Tests/Slice0.lean ====
section
/-!
SUPPORT. Tests. Every expected value of the first two parts is read from spec/95_test_vectors.md, whose vectors are named;
the third part shows for every statement with hypotheses states and operands that meet them.
-/

namespace Sys2Proof.Tests

open Sys2Proof Sys2Proof.Machine

/-! ### Helpers -/

/-- The next state, if the step has one. -/
def nextOf : Result → Option State
  | .next t => some t
  | .fault _ => none
  | .refused _ => none

/-- The reason of a fault with the state it stops in. -/
def faultOf : Result → Option (FaultReason × State)
  | .next _ => none
  | .fault (.raised r t) => some (r, t)
  | .refused _ => none

/-- Why there is no step. -/
def refusalOf : Result → Option Refusal
  | .next _ => none
  | .fault _ => none
  | .refused r => some r

/-- What the decoder of three channels reads. -/
def reads (ws : List Word) : Option (Instr × List Word) :=
  match decode 3 ws with
  | .ok r => some r
  | .error _ => none

/-- Why it reads nothing. -/
def rejects (ws : List Word) : Option Illegal :=
  match decode 3 ws with
  | .ok _ => none
  | .error e => some e

/-- The registers of the numbers given, in order (10_state.md R36). -/
def regs (t : State) (numbers : List Nat) : List Word := numbers.filterMap t.readRegister

/-- A channel after `BRINGUP 0, 0, 0x00A5`, with capacities 8. -/
def quiet : Channel :=
  { Channel.reset ⟨8, 8⟩ with
    initialized := true, wqAttached := true, rqAttached := true, cbEn := true, cbCtx := 0xA5
    isr := ⟨true, true, false⟩ }

/-- That channel Draining, its completion task at `INF`. -/
def draining : Channel :=
  { quiet with writeState := .draining, wt := ⟨true, .inf⟩, ier := ⟨true, false, false⟩ }

/-- That channel Armed with timeout 100 at time 0. -/
def armed : Channel :=
  { quiet with readState := .armed, readTimeout := 100, rt := ⟨true, .ticks 100⟩, ier := ⟨false, false, true⟩ }

/-- A machine of one channel, with `hf` clock requests, at time `now`. -/
def machine (c : Channel) (hf now : Nat) : State :=
  ⟨[c], { Shared.reset with hfCount := hf, now := now }, none, none, []⟩

/-- The same with a micro-step pending. -/
def pending (c : Channel) (hf : Nat) (p : Pending) : State := { machine c hf 0 with coop := some ⟨0, p⟩ }

/-! ### Well-formedness refuses an ill-formed term for each check -/

theorem test_wf_channel : (Instr.irq 3).wf 3 = false ∧ (Instr.irq 2).wf 3 = true := by decide
theorem test_wf_ticks : (Instr.tick 8388608).wf 3 = false ∧ (Instr.arm 0 false 8388608).wf 3 = false ∧
    (Instr.tick 8388607).wf 3 = true := by decide
theorem test_wf_drain : (Instr.drain 0 65536).wf 3 = false ∧ (Instr.drain 0 65535).wf 3 = true := by decide
theorem test_wf_payload : (Instr.enqueue 0 false (List.replicate 256 0)).wf 3 = false ∧
    (Instr.enqueue 0 false (List.replicate 255 0)).wf 3 = true := by
  simp only [Instr.wf, payloadOk, List.length_replicate]
  decide
theorem test_wf_callback : (Instr.setcb 0 false 5).wf 3 = false ∧ (Instr.setcb 0 false 0).wf 3 = true := by decide

/-! ### Decoding (95_test_vectors.md 2.1) -/

theorem test_decode_host :
    reads [0x10000000] = some (.init 0 false, []) ∧ reads [0x20000003] = some (.attach 0 true true, []) ∧
    reads [0x30000000] = some (.setcb 0 false 0, []) ∧ reads [0x40000000] = some (.enqueue 0 false [], []) ∧
    reads [0x50000064] = some (.arm 0 false 100, []) ∧ reads [0x507FFFFF] = some (.arm 0 false 8388607, []) ∧
    reads [0x60000000] = some (.cancel 0 false, []) ∧ reads [0x70000010] = some (.drain 0 16, []) := by decide

theorem test_decode_enqueue :
    reads [0x40000005, 0x04030201, 0x00000005, 0xF0000000] =
      some (.enqueue 0 false [1, 2, 3, 4, 5], [0xF0000000]) := by decide

theorem test_decode_other :
    reads [0x80800000] = some (.taskw 0 true, []) ∧ reads [0x92000000] = some (.taskr 2 false, []) ∧
    reads [0xA1000000] = some (.irq 1, []) ∧ reads [0xB0000000] = some (.hwload 0, []) ∧
    reads [0xC0000000] = some (.hwdone 0, []) ∧ reads [0xD0000041] = some (.hwrx 0 0x41, []) ∧
    reads [0xE0000064] = some (.tick 100, []) ∧ reads [0xF0000000] = some (.costep, []) := by decide

theorem test_decode_illegal :
    rejects [0x00000000] = some .reservedOp ∧ rejects [0x10000002] = some .reservedBits ∧
    rejects [0x10800000] = some .reservedBits ∧ rejects [0x13000000] = some .noChannel ∧
    rejects [0x30000005] = some .setcbContext ∧ rejects [0x40000002, 0x00FF0201] = some .padding ∧
    rejects [0x40000100] = some .reservedBits ∧ rejects [0x40000005, 0x04030201] = some .truncated ∧
    rejects [0x60000001] = some .reservedBits ∧ rejects [0x70010000] = some .reservedBits ∧
    rejects [0xA0800000] = some .reservedBits ∧ rejects [0xD0000141] = some .reservedBits ∧
    rejects [0xE1000000] = some .reservedBits ∧ rejects [0xE0800000] = some .reservedBits ∧
    rejects [0xF0000001] = some .reservedBits := by decide

/-- The words of program A (Part 3), step 4, are what the encoder writes. -/
theorem test_encode_enqueue :
    encode (.enqueue 0 false [1, 2, 3, 4, 5]) = [0x40000005, 0x04030201, 0x00000005] := by decide

/-- The response words of the vectors L4, L6, R4, R5 and W5, one for each status code but OK. -/
theorem test_status_codes :
    (⟨.attach, 2, .notInitialized, 0, []⟩ : Response).word = 0x22100000 ∧
    (⟨.arm, 0, .notAttached, 0, []⟩ : Response).word = 0x50200000 ∧
    (⟨.arm, 0, .alreadyActive, 0, []⟩ : Response).word = 0x50300000 ∧
    (⟨.cancel, 0, .notArmed, 0, []⟩ : Response).word = 0x60400000 ∧
    (⟨.enqueue, 0, .queueFull, 8, []⟩ : Response).word = 0x40500008 := by decide

/-- A row of the table given as one number, its payload words zero. -/
theorem test_decodeTableWord :
    decodeTableWord 32 0x40000002 = some (.enqueue 0 false [0, 0]) ∧
    decodeTableWord 32 0xE07FFFFF = some (.tick 8388607) ∧ decodeTableWord 32 0 = none := by decide

/-- 30_encoding.md R120: the spec's own example line, and a pseudo-instruction of R121. -/
theorem test_assemble :
    assembleLine 3 "ENQUEUE.P 0, 0xAA ; bytes".toList = some [.enqueue 0 true [0xAA]] ∧
    assembleLine 3 "REARM 1, 50".toList = some [.cancel 1 false, .arm 1 false 50] := by decide

/-! ### One step per vector -/

theorem test_L1 : (nextOf (exec (.init 0 false) State.reset)).map (fun t =>
    (t.shared.respWords, t.readRegister 0x00, t.readRegister 0x01, t.readRegister 0x02)) =
      some ([0x10000001], some 0x01, some 0, some 0x3) := by decide

theorem test_L3 : (faultOf (exec (.init 0 false) (machine quiet 0 0))).map (fun r =>
    (r.1, r.2.readRegister 0xF3, r.2.shared.respWords)) = some (.reinit, some 3, []) := by decide

theorem test_L5 : (nextOf (exec (.attach 0 true true)
    (machine { Channel.reset ⟨8, 8⟩ with initialized := true } 0 0))).map (fun t =>
      (t.shared.respWords, t.readRegister 0x00)) = some ([0x20000001], some 0x19) := by decide

theorem test_L7 : (faultOf (exec (.attach 0 false true)
    (machine { Channel.reset ⟨8, 8⟩ with initialized := true, wqAttached := true } 0 0))).map (fun r =>
      (r.1, r.2.readRegister 0xF3)) = some (.reattach, some 4) := by decide

theorem test_L9 : (nextOf (exec (.setcb 0 true 0x00A5)
    (machine { Channel.reset ⟨8, 8⟩ with initialized := true } 0 0))).map (fun t =>
      (t.shared.respWords, t.readRegister 0x00, t.readRegister 0x0C)) =
        some ([0x30000001], some 0x21, some 0x00A5) := by decide

theorem test_L10 : (nextOf (exec (.setcb 2 true 0x00A5) State.reset)).map (fun t =>
    (t.shared.respWords, decide (t.chans = State.reset.chans))) = some ([0x32100000], true) := by decide

theorem test_W5 : (nextOf (exec (.enqueue 0 false [1, 2, 3, 4, 5, 6, 7, 8, 9, 10]) (machine quiet 0 0))).map (fun t =>
    (t.shared.respWords, t.chans.map (fun c => c.wq.data), regs t [0x07, 0xF1, 0x01], t.shared.pglog)) =
      some ([0x40500008], [[1, 2, 3, 4, 5, 6, 7, 8]], [0xFFFFFFFF, 1, 0x1], [.enHf]) := by decide

theorem test_W7 : (nextOf (exec (.enqueue 0 false [6])
    (machine { draining with wq := ⟨[1, 2, 3, 4, 5], 8⟩ } 1 0))).map (fun t =>
      (t.shared.respWords, regs t [0x0A, 0x06, 0x07, 0xF1], t.shared.pglog)) =
        some ([0x40000001], [6, 1, 0xFFFFFFFF, 1], []) := by decide

theorem test_W8 : refusalOf (exec (.taskw 0 false) (machine draining 1 0)) = some (.notEnabled .ne3) := by decide

theorem test_W10 : (nextOf (exec (.taskw 0 false)
    (machine { draining with wt := ⟨true, .ticks 0⟩, cbEn := false } 1 0))).map (fun t =>
      (t.chans.map (fun c => c.writeState), t.readRegister 0x06, t.readRegister 0xF1, t.shared.pglog,
        t.shared.eventWords)) = some ([.idle], some 0, some 0, [.disHf], []) := by decide

theorem test_W11 : (nextOf (exec .costep
    (pending { quiet with wt := ⟨true, .ticks 0⟩ } 1 .taskwPh1))).map (fun t =>
      (t.readRegister 0x06, t.readRegister 0xF1, t.shared.eventWords, t.coop)) =
        some (some 0, some 0, [0x000000A5], none) := by decide

theorem test_R3 : (nextOf (exec (.arm 0 false 100) (machine quiet 0 0))).map (fun t =>
    (t.shared.respWords, regs t [0x05, 0x08, 0x09, 0x01, 0xF1, 0x00])) =
      some ([0x50000001], [100, 1, 100, 0x4, 1, 0x3D]) := by decide

theorem test_R4 : (nextOf (exec (.arm 0 false 50) (machine armed 1 0))).map (fun t =>
    (t.shared.respWords, t.readRegister 0x05, t.readRegister 0x09, t.readRegister 0x01, t.readRegister 0xF1)) =
      some ([0x50300000], some 100, some 100, some 0x4, some 1) := by decide

theorem test_R5 : (nextOf (exec (.cancel 0 false) (machine quiet 0 0))).map (fun t =>
    (t.shared.respWords, decide (t.chans = [quiet]))) = some ([0x60400000], true) := by decide

theorem test_R6 : (nextOf (exec (.cancel 0 false) (machine armed 1 0))).map (fun t =>
    (t.shared.respWords, regs t [0x00, 0x01, 0xF1, 0x08], t.shared.pglog)) =
      some ([0x60000000], [0x39, 0, 0, 0], [.disHf]) := by decide

theorem test_R10 : (nextOf (exec (.drain 0 16)
    (machine { armed with rq := ⟨[0x41, 0x42, 0x43, 0x44, 0x45], 8⟩ } 1 0))).map (fun t =>
      (t.shared.respWords, t.readRegister 0x0B)) = some ([0x70000005, 0x44434241, 0x00000045], some 0) := by decide

theorem test_R11 : (nextOf (exec (.drain 0 2) (machine { armed with rq := ⟨[0x41, 0x42, 0x43], 8⟩ } 1 0))).map
    (fun t => (t.shared.respWords, t.chans.map (fun c => c.rq.data))) =
      some ([0x70000002, 0x00004241], [[0x43]]) := by decide

theorem test_R13 : refusalOf (exec (.taskr 0 false) (machine armed 1 99)) = some (.notEnabled .ne4) := by decide

theorem test_R14 : (nextOf (exec (.taskr 0 false) (machine armed 1 100))).map (fun t =>
    (t.readRegister 0x09, t.shared.eventWords)) = some (some 200, [0x000200A5]) := by decide

theorem test_I11 : (nextOf (exec (.irq 0) (machine { armed with
    wq := ⟨[0x01], 8⟩, ier := ⟨true, false, true⟩, isr := ⟨true, true, true⟩, rdr := 0x41 } 1 0))).map (fun t =>
      (regs t [0x03, 0x0A, 0x09, 0x01, 0x02], t.chans.map (fun c => c.rq.data))) =
        some ([0x01, 0, 0, 0x5, 0], [[0x41]]) := by decide

theorem test_I13 : (faultOf (exec (.irq 0) (machine { quiet with ier := ⟨false, true, false⟩ } 0 0))).map (fun r =>
    (r.1, r.2.readRegister 0xF3, r.2.readRegister 0x01)) = some (.schedBadSlot, some 2, some 0x2) := by decide

theorem test_E2 : (nextOf (exec (.hwload 0)
    (machine { quiet with isr := ⟨false, false, false⟩, tdr := 0x01 } 0 0))).map (fun t =>
      (t.chans.map (fun c => (c.tsr, c.tsrBusy)), t.readRegister 0x02)) =
        some ([(0x01, true)], some 0x1) := by decide

theorem test_E4 : refusalOf (exec (.hwload 0)
    (machine { quiet with isr := ⟨false, false, false⟩, tsrBusy := true } 0 0)) = some (.notEnabled .ne5) := by decide

theorem test_E5 : (nextOf (exec (.hwdone 0)
    (machine { quiet with isr := ⟨false, false, false⟩, tsr := 0x01, tsrBusy := true } 0 0))).map (fun t =>
      (t.chans.map (fun c => (c.linelog, c.tsrBusy)), t.readRegister 0x02)) =
        some ([([0x01], false)], some 0) := by decide

theorem test_E6 : (nextOf (exec (.hwdone 0)
    (machine { quiet with isr := ⟨true, false, false⟩, tsr := 0x05, tsrBusy := true } 0 0))).map (fun t =>
      (t.chans.map (fun c => (c.linelog, c.tsrBusy)), t.readRegister 0x02)) =
        some ([([0x05], false)], some 0x3) := by decide

theorem test_E8 : (nextOf (exec (.hwrx 0 0x41) (machine quiet 0 0))).map (fun t =>
    (t.readRegister 0x04, t.readRegister 0x02)) = some (some 0x41, some 0x7) := by decide

theorem test_E9 : (nextOf (exec (.hwrx 0 0x42)
    (machine { quiet with isr := ⟨true, true, true⟩, rdr := 0x41 } 0 0))).map (fun t => t.readRegister 0x04) =
      some (some 0x41) := by decide

theorem test_E12 : (nextOf (exec (.tick 8388607) (machine quiet 0 5))).map (fun t => t.shared.now) =
    some 8388612 := by decide

theorem test_E13 : refusalOf (exec .costep (machine quiet 0 0)) = some (.notEnabled .ne2) := by decide

/-- The host's way of running one word after reset. -/
theorem test_withFetchWord : (nextOf (step (State.reset.withFetchWord 32 0x10000000))).map (fun t =>
    (t.shared.respWords, t.stream)) = some ([0x10000001], []) := by decide

/-! ### Witnesses: for every statement with hypotheses, a state and operands that meet them -/

/-- A channel before bring-up. -/
def fresh : Channel := Channel.reset ⟨8, 8⟩

/-- An initialised channel with nothing attached. -/
def bare : Channel := { fresh with initialized := true, isr := ⟨true, true, false⟩ }

/-- A channel Draining and Armed at once, with a byte queued, one waiting in TDR and one received. -/
def busyChannel : Channel :=
  { armed with
    writeState := .draining, wt := ⟨true, .inf⟩, ier := ⟨true, false, true⟩, isr := ⟨false, false, true⟩
    wq := ⟨[2], 8⟩, tdr := 1, txlog := [1] }

/-- A machine of that channel. -/
def busy : State := machine busyChannel 2 0

/-- The machine of the hazard (Part 3, program F, before its step 11). -/
def hazardous : State :=
  pending { quiet with
    writeState := .draining, wt := ⟨true, .inf⟩, ier := ⟨false, true, false⟩, wq := ⟨[0xAA], 8⟩, txlog := [1]
    linelog := [1] } 1 (.enqueuePh2 1 1)

theorem only_channel {c c' : Channel} {hf now ch : Nat} (h : (machine c hf now).chans[ch]? = some c') :
    ch = 0 ∧ c' = c := by
  cases ch with
  | zero => exact ⟨rfl, (Option.some.inj h).symm⟩
  | succ n => simp [machine] at h

theorem machine_sound {c : Channel} {hf now : Nat} (h : SoundChannel none c) (hh : hf = hfShare none c)
    (hd : dsShare none c = 0) : Sound (machine c hf now) where
  channels := by
    intro ch c' hc
    obtain ⟨rfl, rfl⟩ := only_channel hc
    exact h
  coopChannel := by
    intro co hco
    simp [machine] at hco
  hfExact := by
    subst hh
    rfl
  dsExact := by
    show 0 = dsShare none c + 0
    rw [hd]

theorem busy_orderly : Orderly busy where
  sound := machine_sound (by constructor <;> decide) (by decide) (by decide)
  channels := by
    intro ch c hc
    obtain ⟨rfl, rfl⟩ := only_channel hc
    show OrderlyChannel 0 none busyChannel
    constructor <;> decide

theorem fresh_sound : Sound (machine fresh 0 0) := machine_sound (by constructor <;> decide) (by decide) (by decide)

theorem reset_isReset : IsReset Config.params State.reset := rfl

theorem witness_DecodeOfEncode : (Instr.drain 15 65535).wf 16 = true ∧ (Instr.setcb 0 true 0xFFFF).wf 1 = true := by
  decide
theorem witness_EncodeOfDecode : decode 3 [0x40000001, 0x000000FF, 0xF0000000] =
    .ok (.enqueue 0 false [0xFF], [0xF0000000]) := rfl
theorem witness_OpcodeRowsAreDisjoint : ∃ r ∈ opTable, r.spells 0xF0000000 = true := by decide

theorem witness_IllegalStimulus_a : ∃ s : State, s.stream = [0x00000000] ∧ ∀ r ∈ opTable, r.spells 0x00000000 = false :=
  ⟨State.reset.pushWords [0], rfl, by decide⟩
theorem witness_IllegalStimulus_c : (State.reset.pushWords [0x13000000]).nch ≤ chField 0x13000000 := by decide
theorem witness_IllegalStimulus_d : opField 0x30000005 = Op.setcb.code ∧ (0x30000005 : Word).getLsbD 16 = false ∧
    (0x30000005 : Word).extractLsb' 0 16 ≠ 0 := by decide
theorem witness_IllegalStimulus_e : opField 0x40000003 = Op.enqueue.code ∧
    payloadWords ((0x40000003 : Word).extractLsb' 0 8).toNat ≤ [(0x01000000 : Word)].length ∧
    ∃ b ∈ (unpackBytes ([0x01000000].take (payloadWords ((0x40000003 : Word).extractLsb' 0 8).toNat))).drop
      ((0x40000003 : Word).extractLsb' 0 8).toNat, b ≠ 0 := by decide
theorem witness_IllegalStimulus_f : opField 0x40000005 = Op.enqueue.code ∧
    [(0x04030201 : Word)].length < payloadWords ((0x40000005 : Word).extractLsb' 0 8).toNat := by decide

theorem witness_StepRunsDecodedStimulus :
    decode (State.reset.pushWords [0x10000000]).nch (State.reset.pushWords [0x10000000]).stream =
      .ok (.init 0 false, []) := rfl
theorem witness_PayloadIsLittleEndian : 7 < 4 * (packBytes [1, 2, 3, 4, 5]).length := by decide
theorem witness_ResponseWordFields : ∃ r : Response, r.ch = 15 ∧ r.ch < 16 ∧ r.val = 65535 ∧ r.val < 65536 :=
  ⟨⟨.drain, 15, .ok, 65535, []⟩, by decide⟩
theorem witness_EventWordFields : ∃ e : Event, e.ch = 15 ∧ e.ch < 16 := ⟨⟨15, .readData, 0⟩, by decide⟩
/-- The last tick the view shows, channel 14, a due-time that is `INF` and one that is not, and counts that fit 32 bits. -/
theorem witness_RegisterViewShowsTheState : ∃ (s : State) (c : Channel), s.shared.now = 0xFFFFFFFE ∧
    s.shared.now < 0xFFFFFFFF ∧ 14 < 15 ∧ s.chans[14]? = some c ∧ c.wt.due = .inf ∧ c.rt.due = .ticks 100 ∧
    c.wq.data.length < 2 ^ 32 ∧ s.shared.hfCount < 2 ^ 32 :=
  ⟨⟨List.replicate 16 busyChannel, { Shared.reset with now := 0xFFFFFFFE }, none, none, []⟩, busyChannel, by decide⟩
theorem witness_QueuesAreFifo : ∃ q : ByteQueue, q.data ≠ [] ∧ q.data.length = q.cap ∧ q.wf = true :=
  ⟨⟨[1, 2], 2⟩, by decide⟩
theorem witness_StepKeepsMemoryWellFormed : ∃ s t : State, Memory.wf s = true ∧ step s = .next t :=
  ⟨busy.pushWords [0xA0000000], _, by decide, rfl⟩

theorem witness_InitBringsUpOnce : (Ready (machine fresh 0 0) 0 fresh ∧ fresh.initialized = false) ∧
    Ready (machine bare 0 0) 0 bare ∧ bare.initialized = true := ⟨⟨⟨rfl, rfl, rfl⟩, rfl⟩, ⟨rfl, rfl, rfl⟩, rfl⟩
theorem witness_AttachSuppliesQueuesOnce :
    (Ready (machine fresh 0 0) 0 fresh ∧ fresh.initialized = false) ∧
    (Ready (machine bare 0 0) 0 bare ∧ bare.initialized = true ∧ bare.wqAttached = false ∧ bare.rqAttached = false) ∧
    Ready (machine quiet 0 0) 0 quiet ∧ quiet.initialized = true ∧ (quiet.wqAttached = true ∨ quiet.rqAttached = true) :=
  ⟨⟨⟨rfl, rfl, rfl⟩, rfl⟩, ⟨⟨rfl, rfl, rfl⟩, rfl, rfl, rfl⟩, ⟨rfl, rfl, rfl⟩, rfl, .inl rfl⟩
theorem witness_SetcbRegistersCallback : (Ready (machine fresh 0 0) 0 fresh ∧ fresh.initialized = false) ∧
    Ready (machine bare 0 0) 0 bare ∧ bare.initialized = true := witness_InitBringsUpOnce
theorem witness_UninitialisedCallsAreRejected : Ready (machine fresh 0 0) 0 fresh ∧ fresh.initialized = false ∧
    fresh.readState = .idle := ⟨⟨rfl, rfl, rfl⟩, rfl, rfl⟩
/-- Neither queue attached; and only the one that is tested. -/
theorem witness_UnattachedCallsAreRejected : (Ready (machine bare 0 0) 0 bare ∧ bare.initialized = true ∧
    bare.wqAttached = false ∧ bare.rqAttached = false) ∧
    (∃ (c : Channel) (t : State), Ready (machine c 0 0) 0 c ∧ c.initialized = true ∧ c.wqAttached = true ∧
      c.rqAttached = false ∧ exec (.enqueue 0 false [1]) (machine c 0 0) = .next t) ∧
    ∃ (c : Channel) (t : State), Ready (machine c 0 0) 0 c ∧ c.initialized = true ∧ c.rqAttached = true ∧
      c.wqAttached = false ∧ exec (.arm 0 false 1) (machine c 0 0) = .next t :=
  ⟨⟨⟨rfl, rfl, rfl⟩, rfl, rfl, rfl⟩, ⟨{ bare with wqAttached := true }, _, ⟨rfl, rfl, rfl⟩, rfl, rfl, rfl, rfl⟩,
    { bare with rqAttached := true }, _, ⟨rfl, rfl, rfl⟩, rfl, rfl, rfl, rfl⟩

/-- Nothing offered, and a full queue. -/
theorem witness_EnqueueOfNothing : Ready (machine quiet 0 0) 0 quiet ∧ quiet.initialized = true ∧
    quiet.wqAttached = true ∧ min ([] : List Byte).length (quiet.wq.cap - quiet.wq.data.length) = 0 ∧
    ∃ c : Channel, Ready (machine c 0 0) 0 c ∧ c.initialized = true ∧ c.wqAttached = true ∧
      min [(0xFF : Byte)].length (c.wq.cap - c.wq.data.length) = 0 :=
  ⟨⟨rfl, rfl, rfl⟩, rfl, rfl, rfl, { quiet with wq := ⟨[1], 1⟩ }, ⟨rfl, rfl, rfl⟩, by decide⟩
/-- Eight of ten bytes fit. -/
theorem witness_EnqueueStartsDraining : Ready (machine quiet 0 0) 0 quiet ∧ quiet.initialized = true ∧
    quiet.wqAttached = true ∧ 8 = min [(1 : Byte), 2, 3, 4, 5, 6, 7, 8, 9, 10].length
      (quiet.wq.cap - quiet.wq.data.length) ∧ 1 ≤ 8 ∧ quiet.writeState = .idle ∧ quiet.wt.registered = false :=
  ⟨⟨rfl, rfl, rfl⟩, by decide⟩
theorem witness_EnqueueContinuesDraining : Ready busy 0 busyChannel ∧ busyChannel.initialized = true ∧
    busyChannel.wqAttached = true ∧ 1 = min [(3 : Byte)].length (busyChannel.wq.cap - busyChannel.wq.data.length) ∧
    busyChannel.writeState = .draining ∧ busyChannel.wt.registered = true := ⟨⟨rfl, rfl, rfl⟩, by decide⟩
/-- At the very tick its slot is due. -/
theorem witness_TaskwCompletesTheWrite : ∃ (s : State) (c : Channel), Ready s 0 c ∧ c.wt.registered = true ∧
    c.wt.due = .ticks s.shared.now ∧ c.wt.due.reached s.shared.now = true ∧
    (if c.lp then s.shared.dsCount else s.shared.hfCount) ≠ 0 :=
  ⟨machine { draining with wt := ⟨true, .ticks 9⟩ } 1 9, _, ⟨rfl, rfl, rfl⟩, by decide⟩

theorem witness_ArmStartsSupervision : Ready (machine quiet 0 0) 0 quiet ∧ quiet.initialized = true ∧
    quiet.rqAttached = true ∧ quiet.readState = .idle ∧ quiet.rt.registered = false := ⟨⟨rfl, rfl, rfl⟩, by decide⟩
theorem witness_ArmIsNotReentrant : Ready busy 0 busyChannel ∧ busyChannel.initialized = true ∧
    busyChannel.rqAttached = true ∧ busyChannel.readState = .armed := ⟨⟨rfl, rfl, rfl⟩, by decide⟩
theorem witness_CancelStopsSupervision : (Ready busy 0 busyChannel ∧ busyChannel.readState = .armed ∧
    busyChannel.rt.registered = true ∧ busy.shared.hfCount ≠ 0) ∧
    Ready (machine quiet 0 0) 0 quiet ∧ quiet.readState = .idle :=
  ⟨⟨⟨rfl, rfl, rfl⟩, by decide⟩, ⟨rfl, rfl, rfl⟩, rfl⟩
theorem witness_DrainReturnsTheOldestBytes : (Ready busy 0 busyChannel ∧ busyChannel.readState = .armed) ∧
    Ready (machine quiet 0 0) 0 quiet ∧ quiet.readState = .idle := ⟨⟨⟨rfl, rfl, rfl⟩, rfl⟩, ⟨rfl, rfl, rfl⟩, rfl⟩
theorem witness_TaskrRearmsAndReports : Ready (machine armed 1 100) 0 armed ∧ armed.rt.registered = true ∧
    armed.rt.due.reached 100 = true := ⟨⟨rfl, rfl, rfl⟩, by decide⟩
theorem witness_ReadTimeoutFiresWhenElapsed : ∃ t u : State, Ready (machine quiet 0 0) 0 quiet ∧
    quiet.initialized = true ∧ quiet.rqAttached = true ∧ quiet.readState = .idle ∧
    exec (.arm 0 false 100) (machine quiet 0 0) = .next t ∧ exec (.tick 100) t = .next u :=
  ⟨_, _, ⟨rfl, rfl, rfl⟩, rfl, rfl, rfl, rfl, rfl⟩
theorem witness_CancelThenArmSucceeds : Sound busy ∧ Ready busy 0 busyChannel ∧ busyChannel.readState = .armed :=
  ⟨busy_orderly.sound, ⟨rfl, rfl, rfl⟩, rfl⟩

theorem witness_IrqFollowsOutcomeTable : Live busy 0 busyChannel ∧
    (transmitWakes busyChannel = true → busyChannel.wt.registered = true) ∧
    (busyChannel.ier.rxneie = true → busyChannel.isr.rxne = true → busyChannel.rt.registered = true) :=
  ⟨⟨rfl, rfl⟩, by decide⟩
theorem witness_IrqFaultsOnUnregisteredSlot :
    (∃ c : Channel, Live (machine c 0 0) 0 c ∧ transmitWakes c = true ∧ c.wt.registered = false) ∧
    ∃ c : Channel, Live (machine c 0 0) 0 c ∧ c.ier.rxneie = true ∧ c.isr.rxne = true ∧ c.rt.registered = false :=
  ⟨⟨{ quiet with ier := ⟨false, true, false⟩ }, ⟨rfl, rfl⟩, by decide⟩,
    ⟨{ quiet with ier := ⟨false, false, true⟩, isr := ⟨true, true, true⟩ }, ⟨rfl, rfl⟩, by decide⟩⟩
theorem witness_SpuriousIrqChangesNothing : Live (machine quiet 0 0) 0 quiet ∧
    ((quiet.ier.txeie && quiet.isr.txe) || (quiet.ier.tcie && quiet.isr.tc) ||
      (quiet.ier.rxneie && quiet.isr.rxne)) = false := ⟨⟨rfl, rfl⟩, rfl⟩
theorem witness_MultiplexerFrame : ∃ t, busy.chans[0]? = some busyChannel ∧ exec (.irq 0) busy = .next t :=
  ⟨_, rfl, rfl⟩
theorem witness_InterruptsOfChannelsCommute : ∃ t u : State, (0 : Nat) ≠ 1 ∧
    exec (.irq 0) ⟨[busyChannel, busyChannel], Shared.reset, none, none, []⟩ = .next t ∧ exec (.irq 1) t = .next u :=
  ⟨_, _, by decide, rfl, rfl⟩

theorem witness_Hwload : (Live busy 0 busyChannel ∧ busyChannel.initialized = true ∧ busyChannel.isr.txe = false ∧
    busyChannel.tsrBusy = false) ∧ Live (machine quiet 0 0) 0 quiet ∧
    ¬(quiet.initialized = true ∧ quiet.isr.txe = false ∧ quiet.tsrBusy = false) :=
  ⟨⟨⟨rfl, rfl⟩, by decide⟩, ⟨rfl, rfl⟩, by decide⟩
theorem witness_Hwdone : (∃ c : Channel, Live (machine c 0 0) 0 c ∧ c.initialized = true ∧ c.tsrBusy = true) ∧
    Live (machine quiet 0 0) 0 quiet ∧ ¬(quiet.initialized = true ∧ quiet.tsrBusy = true) :=
  ⟨⟨{ quiet with tsrBusy := true }, ⟨rfl, rfl⟩, rfl, rfl⟩, ⟨rfl, rfl⟩, by decide⟩
theorem witness_Hwrx : (Live (machine quiet 0 0) 0 quiet ∧ quiet.initialized = true ∧ quiet.isr.rxne = false) ∧
    (Live busy 0 busyChannel ∧ busyChannel.initialized = true ∧ busyChannel.isr.rxne = true) ∧
    Live (machine fresh 0 0) 0 fresh ∧ fresh.initialized = false :=
  ⟨⟨⟨rfl, rfl⟩, rfl, rfl⟩, ⟨⟨rfl, rfl⟩, rfl, rfl⟩, ⟨rfl, rfl⟩, rfl⟩
theorem witness_TickAdvancesTime : busy.fault = none := rfl

theorem witness_CostepRunsEnqueue : (InFlight (pending quiet 0 (.enqueuePh1 1 2)) 0 quiet (.enqueuePh1 1 2) ∧
    quiet.writeState = .idle ∧ quiet.wt.registered = false) ∧
    (InFlight (pending busyChannel 2 (.enqueuePh1 1 1)) 0 busyChannel (.enqueuePh1 1 1) ∧
      busyChannel.writeState = .draining ∧ busyChannel.wt.registered = true) ∧
    InFlight (pending draining 1 (.enqueuePh2 1 2)) 0 draining (.enqueuePh2 1 2) :=
  ⟨⟨⟨rfl, rfl, rfl⟩, rfl, rfl⟩, ⟨⟨rfl, rfl, rfl⟩, rfl, rfl⟩, ⟨rfl, rfl, rfl⟩⟩
theorem witness_CostepRunsArmAndCancel : InFlight (pending quiet 0 .armPh1) 0 quiet .armPh1 ∧
    InFlight (pending quiet 0 .armPh2) 0 quiet .armPh2 ∧ InFlight (pending quiet 1 .cancelPh1) 0 quiet .cancelPh1 ∧
    ∃ c : Channel, InFlight (pending c 1 .cancelPh2) 0 c .cancelPh2 ∧ c.rt.registered = true ∧
      (pending c 1 .cancelPh2).shared.hfCount ≠ 0 :=
  ⟨⟨rfl, rfl, rfl⟩, ⟨rfl, rfl, rfl⟩, ⟨rfl, rfl, rfl⟩, { quiet with rt := ⟨true, .inf⟩ }, ⟨rfl, rfl, rfl⟩, by decide⟩
theorem witness_CostepRunsTasks : (∃ c : Channel, InFlight (pending c 1 .taskwPh1) 0 c .taskwPh1 ∧
    c.wt.registered = true ∧ (if c.lp then (pending c 1 .taskwPh1).shared.dsCount
      else (pending c 1 .taskwPh1).shared.hfCount) ≠ 0) ∧
    InFlight (pending armed 1 .taskrPh1) 0 armed .taskrPh1 :=
  ⟨⟨{ quiet with wt := ⟨true, .inf⟩ }, ⟨rfl, rfl, rfl⟩, by decide⟩, ⟨rfl, rfl, rfl⟩⟩
theorem witness_PreemptibleStart : (Ready (machine quiet 0 0) 0 quiet ∧
    1 = min [(7 : Byte)].length (quiet.wq.cap - quiet.wq.data.length) ∧ quiet.readState = .idle ∧
    quiet.rt.registered = false) ∧ (Ready (machine armed 1 100) 0 armed ∧ armed.readState = .armed ∧
    armed.rt.registered = true ∧ armed.rt.due.reached 100 = true) ∧
    ∃ c : Channel, Ready (machine c 1 0) 0 c ∧ c.wt.registered = true ∧ c.wt.due.reached 0 = true :=
  ⟨⟨⟨rfl, rfl, rfl⟩, by decide⟩, ⟨⟨rfl, rfl, rfl⟩, by decide⟩, { draining with wt := ⟨true, .ticks 0⟩ },
    ⟨rfl, rfl, rfl⟩, by decide⟩
theorem witness_WholeOperation : (Instr.enqueue 0 false [7]).preemptible ≠ .enqueue 0 false [7] ∧
    ∃ t, exec (.enqueue 0 false [7]) (machine quiet 0 0) = .next t := ⟨by decide, _, rfl⟩

theorem witness_NotEnabledExactlyAsListed : (∀ co, hazardous.coop = some co → co.ch < hazardous.nch) ∧
    (Instr.arm 0 false 5).wf hazardous.nch = true ∧
    exec (.arm 0 false 5) hazardous = .refused (.notEnabled .ne1) := by
  refine ⟨?_, by decide, rfl⟩
  intro co h
  obtain rfl := Option.some.inj h
  decide
/-- One fault for each reason. -/
theorem witness_FaultsHaveTheirListedCauses :
    (∃ t, exec (.taskw 0 false) (machine { draining with wt := ⟨true, .ticks 0⟩ } 0 0) = .fault (.raised .pgUnderflow t)) ∧
    (∃ t, exec (.irq 0) (machine { quiet with ier := ⟨false, true, false⟩ } 0 0) = .fault (.raised .schedBadSlot t)) ∧
    (∃ t, exec (.init 0 false) (machine quiet 0 0) = .fault (.raised .reinit t)) ∧
    ∃ t, exec (.attach 0 true true) (machine quiet 0 0) = .fault (.raised .reattach t) :=
  ⟨⟨_, rfl⟩, ⟨_, rfl⟩, ⟨_, rfl⟩, ⟨_, rfl⟩⟩
/-- A fault in a first micro-step, in a second and in a third. -/
theorem witness_FaultKeepsTheStateBefore :
    (∃ t, exec (.init 0 false) (machine quiet 0 0) = .fault (.raised .reinit t)) ∧
    (∃ t, exec (.enqueue 0 false [1]) (machine { quiet with wt := ⟨true, .inf⟩ } 0 0) =
      .fault (.raised .schedBadSlot t)) ∧
    ∃ t, exec (.cancel 0 false) (machine armed 0 0) = .fault (.raised .pgUnderflow t) :=
  ⟨⟨_, rfl⟩, ⟨_, rfl⟩, ⟨_, rfl⟩⟩
theorem witness_FaultedMachineTakesNoStep : ∃ s : State, s.fault = some .reinit :=
  ⟨{ State.reset with fault := some .reinit }, rfl⟩

theorem witness_ResetValues : ∃ c, (State.resetWith Config.params).chans[2]? = some c := ⟨_, rfl⟩
theorem witness_ResetIsOrderly : IsReset Config.params State.reset := reset_isReset
theorem witness_StepKeepsSound : ∃ s t : State, Sound s ∧ step s = .next t :=
  ⟨busy.pushWords [0xA0000000], _,
    ⟨busy_orderly.sound.channels, busy_orderly.sound.coopChannel, busy_orderly.sound.hfExact, busy_orderly.sound.dsExact⟩,
    rfl⟩
theorem witness_StepKeepsOrderly : ∃ s t : State, Orderly s ∧ (∀ i u, s.fetch = .ok (i, u) → ¬Hazard u i) ∧
    step s = .next t := by
  refine ⟨busy.pushWords [0xA0000000], _,
    ⟨⟨busy_orderly.sound.channels, busy_orderly.sound.coopChannel, busy_orderly.sound.hfExact,
      busy_orderly.sound.dsExact⟩, busy_orderly.channels⟩, ?_, rfl⟩
  intro i u h
  have hu : u = busy := by cases h; rfl
  rintro ⟨ch, c, k, n, -, hco, -⟩
  rw [hu] at hco
  cases hco
theorem witness_SourceInvariantsHold : ∃ s : State, Reached Config.params s ∧ s.coop = none ∧ s ≠ State.reset := by
  have h0 : Reached Config.params (State.reset.pushWords [0x10000000]) := .reset rfl
  refine ⟨_, .step h0 (i := .init 0 false) (u := State.reset) rfl ?_ rfl, rfl, by decide⟩
  rintro ⟨ch, c, k, n, hi, -⟩
  cases hi
theorem witness_OrderlyMachineDoesNotFault : ∃ t, Orderly busy ∧ exec (.init 0 false) busy = .fault (.raised .reinit t) :=
  ⟨_, busy_orderly, rfl⟩
/-- On a channel that is Idle on the read side, and on one that is Armed with a byte received. -/
theorem witness_HazardCompletesTheWriteEarly : (∃ c : Channel, InFlight hazardous 0 c (.enqueuePh2 1 1) ∧
    c.ier = ⟨false, true, false⟩ ∧ c.isr.tc = true ∧ c.wt.registered = true ∧ c.wq.data ≠ [] ∧ c.cbEn = true ∧
    (if c.lp then hazardous.shared.dsCount else hazardous.shared.hfCount) ≠ 0) ∧
    ∃ (s : State) (c : Channel), InFlight s 0 c (.enqueuePh2 1 1) ∧ c.ier = ⟨false, true, true⟩ ∧ c.isr.tc = true ∧
      c.wt.registered = true ∧ c.isr.rxne = true ∧ c.rt.registered = true ∧ c.wq.data ≠ [] ∧ c.cbEn = true ∧
      (if c.lp then s.shared.dsCount else s.shared.hfCount) ≠ 0 :=
  ⟨⟨_, ⟨rfl, rfl, rfl⟩, by decide⟩,
    pending { busyChannel with ier := ⟨false, true, true⟩, isr := ⟨true, true, true⟩ } 2 (.enqueuePh2 1 1), _,
    ⟨rfl, rfl, rfl⟩, by decide⟩

theorem witness_StepsTouchOneChannel : (∃ t, exec (.irq 0) busy = .next t) ∧
    (∃ t, exec .costep hazardous = .next t ∧ hazardous.coop = some ⟨0, .enqueuePh2 1 1⟩) ∧
    ∃ t, exec (.tick 8388607) busy = .next t := ⟨⟨_, rfl⟩, ⟨_, rfl, rfl⟩, ⟨_, rfl⟩⟩
/-- Each of the four transitions happens. -/
theorem witness_SubStatesChangeOnlyAsDrawn :
    (nextOf (exec (.enqueue 0 false [1]) (machine quiet 0 0))).map (fun t => t.chans.map (fun c => c.writeState)) =
      some [.draining] ∧
    (nextOf (exec (.taskw 0 true) (machine { draining with wt := ⟨true, .ticks 0⟩ } 1 0))).map
      (fun t => t.chans.map (fun c => c.writeState)) = some [.idle] ∧
    (nextOf (exec (.arm 0 false 1) (machine quiet 0 0))).map (fun t => t.chans.map (fun c => c.readState)) =
      some [.armed] ∧
    (nextOf (exec (.cancel 0 true) busy)).map (fun t => t.chans.map (fun c => c.readState)) = some [.idle] := by decide
/-- Each of the fields is changed by its writer. -/
theorem witness_ControlBlockWriters :
    (nextOf (exec (.init 0 true) (machine fresh 0 0))).map (fun t => t.chans.map (fun c => (c.initialized, c.lp))) =
      some [(true, true)] ∧
    (nextOf (exec (.attach 0 true false) (machine bare 0 0))).map (fun t => t.chans.map (fun c => c.wqAttached)) =
      some [true] ∧
    (nextOf (exec (.setcb 0 true 7) (machine bare 0 0))).map (fun t => t.chans.map (fun c => c.cbCtx)) = some [7] ∧
    (nextOf (exec (.arm 0 true 5) (machine quiet 0 0))).map (fun t => t.chans.map (fun c => c.readTimeout)) =
      some [5] := by decide
/-- Each of the enable bits is set and cleared by its writers. -/
theorem witness_EnableBitWriters :
    (nextOf (exec (.enqueue 0 false [1]) (machine quiet 0 0))).map (fun t => t.chans.map (fun c => c.ier.txeie)) =
      some [true] ∧
    (nextOf (exec (.irq 0) (machine { draining with isr := ⟨true, false, false⟩ } 1 0))).map
      (fun t => t.chans.map (fun c => (c.ier.txeie, c.ier.tcie))) = some [(false, true)] ∧
    (nextOf (exec (.irq 0) hazardous)).map (fun t => t.chans.map (fun c => c.ier.tcie)) = some [false] ∧
    (nextOf (exec (.arm 0 false 1) (machine quiet 0 0))).map (fun t => t.chans.map (fun c => c.ier.rxneie)) =
      some [true] ∧
    (nextOf (exec (.cancel 0 false) busy)).map (fun t => t.chans.map (fun c => c.ier.rxneie)) = some [false] := by
  decide
theorem witness_TracesOnlyGrow : ∃ t c', exec (.irq 0) busy = .next t ∧ t.chans[0]? = some c' := ⟨_, _, rfl, rfl⟩
theorem witness_AcceptedBytesAreSentInOrder : IsReset Config.params State.reset ∧
    ∃ t c, execAll [.init 0 false, .attach 0 true true, .enqueue 0 false [1, 2], .irq 0] State.reset = some t ∧
      t.chans[0]? = some c := ⟨rfl, _, _, rfl, rfl⟩
/-- Two machines that differ in an unspecified value only. -/
theorem witness_OutcomesIgnoreUnspecifiedValues :
    ∃ s t : State, Sound s ∧ Sound t ∧ s.known = t.known ∧ s ≠ t :=
  ⟨machine fresh 0 0, machine { fresh with readTimeout := 7, isr := ⟨true, false, true⟩ } 0 0, fresh_sound,
    machine_sound (by constructor <;> decide) (by decide) (by decide), by decide, by decide⟩

end Sys2Proof.Tests
end

/-!
O58: the output traces only grow and time never decreases (00_scope.md R18, 10_state.md R46).

`Grows` is one order, read off a channel, the shared state, a `Focus` and the whole machine. Each primitive that appends to
a trace grows it, hence so do each micro-step and each indivisible step; `exec_keeps` carries this to every instruction.
-/

namespace Sys2Proof.Machine

/-! ### The order: every trace of the first is a prefix of the second's, and time is no earlier -/

/-- The two traces of a channel. -/
structure Channel.Grows (c c' : Channel) : Prop where
  txlog : c.txlog <+: c'.txlog
  linelog : c.linelog <+: c'.linelog

/-- Time and the three global traces. -/
structure Shared.Grows (g g' : Shared) : Prop where
  now : g.now ≤ g'.now
  resp : g.resp <+: g'.resp
  events : g.events <+: g'.events
  pglog : g.pglog <+: g'.pglog

/-- What one step sees: its channel and the shared state. -/
structure Focus.Grows (f f' : Focus) : Prop where
  channel : f.c.Grows f'.c
  shared : f.g.Grows f'.g

/-- No channel disappears, which makes the order on machines transitive. -/
structure State.Grows (s t : State) : Prop where
  shared : s.shared.Grows t.shared
  channels : ∀ (ch : Nat) (c : Channel), s.chans[ch]? = some c → ∃ c', t.chans[ch]? = some c' ∧ c.Grows c'

theorem Channel.Grows.of_eq {c c' : Channel} (htx : c'.txlog = c.txlog) (hline : c'.linelog = c.linelog) :
    c.Grows c' :=
  ⟨htx ▸ List.prefix_rfl, hline ▸ List.prefix_rfl⟩

theorem Channel.Grows.refl (c : Channel) : c.Grows c := .of_eq rfl rfl

theorem Channel.Grows.trans {a b c : Channel} (h : a.Grows b) (h' : b.Grows c) : a.Grows c :=
  ⟨h.txlog.trans h'.txlog, h.linelog.trans h'.linelog⟩

theorem Shared.Grows.refl (g : Shared) : g.Grows g :=
  ⟨Nat.le_refl _, List.prefix_rfl, List.prefix_rfl, List.prefix_rfl⟩

theorem Shared.Grows.trans {a b c : Shared} (h : a.Grows b) (h' : b.Grows c) : a.Grows c :=
  ⟨Nat.le_trans h.now h'.now, h.resp.trans h'.resp, h.events.trans h'.events, h.pglog.trans h'.pglog⟩

theorem Focus.Grows.refl (f : Focus) : f.Grows f := ⟨.refl _, .refl _⟩

theorem Focus.Grows.trans {a b c : Focus} (h : a.Grows b) (h' : b.Grows c) : a.Grows c :=
  ⟨h.channel.trans h'.channel, h.shared.trans h'.shared⟩

theorem State.Grows.refl (s : State) : s.Grows s := ⟨.refl _, fun _ c hc => ⟨c, hc, .refl c⟩⟩

theorem State.Grows.trans {a b c : State} (h : a.Grows b) (h' : b.Grows c) : a.Grows c where
  shared := h.shared.trans h'.shared
  channels ch x hx := by
    obtain ⟨y, hy, hxy⟩ := h.channels ch x hx
    obtain ⟨z, hz, hyz⟩ := h'.channels ch y hy
    exact ⟨z, hz, hxy.trans hyz⟩

/-! ### The primitives that append to a trace -/

theorem Shared.respond_grows (g : Shared) (op : Op) (ch : Nat) (st : Status) (val : Nat) (payload : List Byte) :
    g.Grows (g.respond op ch st val payload) :=
  { Shared.Grows.refl g with resp := List.prefix_append _ _ }

theorem Shared.enableHf_grows (g : Shared) : g.Grows g.enableHf :=
  { Shared.Grows.refl g with pglog := List.prefix_append _ _ }

theorem Shared.suppressDs_grows (g : Shared) : g.Grows g.suppressDs :=
  { Shared.Grows.refl g with pglog := List.prefix_append _ _ }

theorem Shared.acquireWrite_grows (g : Shared) (lp : Bool) : g.Grows (g.acquireWrite lp) := by
  cases lp
  · exact g.enableHf_grows
  · exact g.suppressDs_grows

theorem Shared.disableHf_grows {g g' : Shared} (h : g.disableHf = .ok g') : g.Grows g' := by
  obtain ⟨-, rfl⟩ := Shared.disableHf_ok.1 h
  exact { Shared.Grows.refl g with pglog := List.prefix_append _ _ }

theorem Shared.allowDs_grows {g g' : Shared} (h : g.allowDs = .ok g') : g.Grows g' := by
  obtain ⟨-, rfl⟩ := Shared.allowDs_ok.1 h
  exact { Shared.Grows.refl g with pglog := List.prefix_append _ _ }

theorem Shared.releaseWrite_grows {g g' : Shared} {lp : Bool} (h : g.releaseWrite lp = .ok g') : g.Grows g' := by
  cases lp
  · exact Shared.disableHf_grows h
  · exact Shared.allowDs_grows h

theorem Focus.report_grows (f : Focus) (ch : Nat) (kind : EventKind) : f.Grows (f.report ch kind) where
  channel := by rw [Focus.report_c]; exact .refl _
  shared := by
    rw [Focus.report_g]
    exact { Shared.Grows.refl f.g with events := List.prefix_append _ _ }

theorem Channel.writeTdr_grows (c : Channel) (b : Byte) : c.Grows (c.writeTdr b) :=
  { Channel.Grows.refl c with txlog := List.prefix_append _ _ }

theorem Channel.finishShift_grows (c : Channel) : c.Grows c.finishShift :=
  { Channel.Grows.refl c with linelog := List.prefix_append _ _ }

/-! ### The micro-steps -/

theorem enqueuePh0_grows {ch : Nat} {bs : List Byte} {f f' : Focus} {p : Option Pending}
    (h : enqueuePh0 ch bs f = .ok (f', p)) : f.Grows f' := by
  obtain ⟨⟨-, hc, st, hg⟩, -⟩ | ⟨-, -, -, rfl, -⟩ := enqueuePh0_ok h
  · exact ⟨hc ▸ .refl _, hg ▸ Shared.respond_grows _ _ _ _ _ _⟩
  · exact ⟨.of_eq rfl rfl, .refl _⟩

theorem armPh0_grows {ch timeout : Nat} {f f' : Focus} {p : Option Pending}
    (h : armPh0 ch timeout f = .ok (f', p)) : f.Grows f' := by
  obtain ⟨-, hc, st, hg⟩ | ⟨-, -, -, -, rfl, -⟩ := armPh0_ok h
  · exact ⟨hc ▸ .refl _, hg ▸ Shared.respond_grows _ _ _ _ _ _⟩
  · exact ⟨.of_eq rfl rfl, .refl _⟩

theorem attachPh0_grows {ch : Nat} {w r : Bool} {f f' : Focus} {p : Option Pending}
    (h : attachPh0 ch w r f = .ok (f', p)) : f.Grows f' := by
  obtain ⟨-, ⟨-, rfl⟩ | ⟨-, -, -, rfl⟩⟩ := attachPh0_ok h <;> exact ⟨.of_eq rfl rfl, Shared.respond_grows _ _ _ _ _ _⟩

theorem setcbPh0_grows {ch : Nat} {en : Bool} {ctx : BitVec 16} {f f' : Focus} {p : Option Pending}
    (h : setcbPh0 ch en ctx f = .ok (f', p)) : f.Grows f' := by
  obtain ⟨-, ⟨-, rfl⟩ | ⟨-, rfl⟩⟩ := setcbPh0_ok h <;> exact ⟨.of_eq rfl rfl, Shared.respond_grows _ _ _ _ _ _⟩

theorem cancelPh0_grows {ch : Nat} {f f' : Focus} {p : Option Pending}
    (h : cancelPh0 ch f = .ok (f', p)) : f.Grows f' := by
  obtain ⟨-, rfl, -⟩ | ⟨-, rfl, -⟩ := cancelPh0_ok.1 h
  · exact ⟨.refl _, Shared.respond_grows _ _ _ _ _ _⟩
  · exact ⟨.of_eq rfl rfl, .refl _⟩

theorem drainPh0_grows {ch max : Nat} {f f' : Focus} {p : Option Pending}
    (h : drainPh0 ch max f = .ok (f', p)) : f.Grows f' := by
  obtain ⟨-, ⟨-, rfl⟩ | ⟨-, rfl⟩⟩ := drainPh0_ok.1 h <;> exact ⟨.of_eq rfl rfl, Shared.respond_grows _ _ _ _ _ _⟩

theorem enqueuePh1_grows {k n : Nat} {f f' : Focus} {p : Option Pending}
    (h : enqueuePh1 k n f = .ok (f', p)) : f.Grows f' := by
  obtain ⟨-, ⟨-, -, rfl⟩ | ⟨-, -, rfl⟩⟩ := enqueuePh1_ok.1 h
  · exact ⟨.of_eq rfl rfl, Shared.acquireWrite_grows _ _⟩
  · exact ⟨.of_eq rfl rfl, .refl _⟩

theorem armPh2_grows {ch : Nat} {f f' : Focus} {p : Option Pending} (h : armPh2 ch f = .ok (f', p)) : f.Grows f' := by
  obtain ⟨rfl, -⟩ := Focus.answer_ok.1 h
  exact ⟨.of_eq rfl rfl, (Shared.enableHf_grows _).trans (Shared.respond_grows _ _ _ _ _ _)⟩

theorem cancelPh2_grows {ch : Nat} {f f' : Focus} {p : Option Pending}
    (h : cancelPh2 ch f = .ok (f', p)) : f.Grows f' := by
  obtain ⟨-, -, -, rfl⟩ := cancelPh2_ok.1 h
  exact ⟨.of_eq rfl rfl, ⟨Nat.le_refl _, List.prefix_append _ _, List.prefix_rfl, List.prefix_append _ _⟩⟩

theorem taskwPh1_grows {ch : Nat} {f f' : Focus} {p : Option Pending}
    (h : taskwPh1 ch f = .ok (f', p)) : f.Grows f' := by
  obtain ⟨-, -, hc, g, hg, hg'⟩ := taskwPh1_ok h
  refine ⟨.of_eq (by rw [hc]) (by rw [hc]), ?_⟩
  rw [hg']
  exact { Shared.releaseWrite_grows hg with events := List.prefix_append _ _ }

theorem runMicro_grows {q : Pending} {ch : Nat} {f f' : Focus} {p : Option Pending}
    (h : runMicro q ch f = .ok (f', p)) : f.Grows f' := by
  cases q with
  | enqueuePh1 k n => exact enqueuePh1_grows h
  | enqueuePh2 k n =>
    obtain ⟨rfl, -⟩ := Focus.answer_ok.1 h
    exact ⟨.of_eq rfl rfl, Shared.respond_grows _ _ _ _ _ _⟩
  | armPh1 => cases h; exact ⟨.of_eq rfl rfl, .refl _⟩
  | armPh2 => exact armPh2_grows h
  | cancelPh1 => cases h; exact ⟨.of_eq rfl rfl, .refl _⟩
  | cancelPh2 => exact cancelPh2_grows h
  | taskwPh1 => exact taskwPh1_grows h
  | taskrPh1 => cases h; exact Focus.report_grows _ _ _

theorem firstMicro_grows {i : Instr} {f f' : Focus} {p : Option Pending}
    (h : firstMicro i f = some (.ok (f', p))) : f.Grows f' := by
  cases i with
  | init ch lp =>
    obtain ⟨-, rfl, -⟩ := initPh0_ok.1 (Option.some.inj h)
    exact ⟨.of_eq rfl rfl, Shared.respond_grows _ _ _ _ _ _⟩
  | attach ch w r => exact attachPh0_grows (Option.some.inj h)
  | setcb ch en ctx => exact setcbPh0_grows (Option.some.inj h)
  | enqueue ch p bs => exact enqueuePh0_grows (Option.some.inj h)
  | arm ch p timeout => exact armPh0_grows (Option.some.inj h)
  | cancel ch p => exact cancelPh0_grows (Option.some.inj h)
  | drain ch max => exact drainPh0_grows (Option.some.inj h)
  | taskw ch p =>
    obtain ⟨-, h⟩ := Option.ite_none_right_eq_some.1 h
    cases h
    exact ⟨.of_eq rfl rfl, .refl _⟩
  | taskr ch p =>
    obtain ⟨-, h⟩ := Option.ite_none_right_eq_some.1 h
    obtain ⟨-, -, rfl⟩ := taskrPh0_ok.1 (Option.some.inj h)
    exact ⟨.of_eq rfl rfl, .refl _⟩
  | irq | hwload | hwdone | hwrx | tick | costep => cases h

/-! ### The indivisible steps outside cooperative context -/

theorem irqTransmitEmpty_grows (f : Focus) : f.Grows (irqTransmitEmpty f) := by
  obtain ⟨-, e⟩ | ⟨-, b, rest, -, e⟩ | ⟨-, -, e⟩ := irqTransmitEmpty_cases f <;> rw [e]
  · exact .refl f
  · have hpop : f.c.Grows { f.c with wq := { f.c.wq with data := rest } } := .of_eq rfl rfl
    exact ⟨hpop.trans (Channel.writeTdr_grows _ b), .refl _⟩
  · exact ⟨.of_eq rfl rfl, .refl _⟩

theorem irqTransmissionComplete_grows {f f' : Focus} (h : irqTransmissionComplete f = .ok f') : f.Grows f' := by
  obtain ⟨-, rfl⟩ | ⟨-, -, rfl⟩ := irqTransmissionComplete_ok.1 h
  · exact .refl _
  · exact ⟨.of_eq rfl rfl, .refl _⟩

theorem irqReceiveNotEmpty_grows {f f' : Focus} (h : irqReceiveNotEmpty f = .ok f') : f.Grows f' := by
  obtain ⟨-, rfl⟩ | ⟨-, -, rfl⟩ := irqReceiveNotEmpty_ok.1 h
  · exact .refl _
  · exact ⟨.of_eq rfl rfl, .refl _⟩

theorem multiplexer_grows {f f' : Focus} (h : multiplexer f = .ok f') : f.Grows f' := by
  obtain ⟨f1, h1, h2⟩ := multiplexer_ok.1 h
  exact ((irqTransmitEmpty_grows f).trans (irqTransmissionComplete_grows h1)).trans (irqReceiveNotEmpty_grows h2)

theorem soleStep_grows {i : Instr} {f f' : Focus} (h : soleStep i f = some (.ok f')) : f.Grows f' := by
  cases i with
  | irq ch => exact multiplexer_grows (Option.some.inj h)
  | hwload ch =>
    obtain ⟨-, h⟩ := Option.ite_none_right_eq_some.1 h
    cases h
    exact ⟨.of_eq rfl rfl, .refl _⟩
  | hwdone ch =>
    obtain ⟨-, h⟩ := Option.ite_none_right_eq_some.1 h
    cases h
    exact ⟨Channel.finishShift_grows _, .refl _⟩
  | hwrx ch b =>
    obtain ⟨-, h⟩ := Option.ite_none_right_eq_some.1 h
    cases h
    exact ⟨.of_eq (Channel.receive_txlog _ b) (Channel.receive_linelog _ b), .refl _⟩
  | init | attach | setcb | enqueue | arm | cancel | drain | taskw | taskr | tick | costep => cases h

/-! ### The machine -/

/-- A step on channel `ch` commits the growth of its `Focus`; the operation in flight carries no trace. -/
theorem State.put_grows {s : State} {ch : Nat} {c : Channel} {f : Focus} (hc : s.chans[ch]? = some c)
    (h : (⟨c, s.shared⟩ : Focus).Grows f) (co : Option Coop) : s.Grows { s.put ch f with coop := co } where
  shared := h.shared
  channels ch' x hx := by
    by_cases e : ch = ch'
    · subst e
      obtain rfl : c = x := Option.some.inj (hc.symm.trans hx)
      exact ⟨f.c, State.put_same s ch f (List.getElem?_eq_some_iff.1 hc).1, h.channel⟩
    · exact ⟨x, (State.put_other s ch ch' f e).trans hx, .refl x⟩

theorem State.runPending_grows {s t : State} (h : s.runPending = .next t) : s.Grows t := by
  obtain ⟨ch, q, c, f, p, -, hc, hm, rfl⟩ := State.runPending_next.1 h
  exact State.put_grows hc (runMicro_grows hm) _

theorem exec_preemptible_grows {i : Instr} {s t : State} (h : exec i.preemptible s = .next t) : s.Grows t := by
  obtain ⟨-, ⟨ch, c, f, p, -, -, hc, hm, rfl⟩ | ⟨ch, c, f, -, hc, hm, rfl⟩ | ⟨-, hr⟩ | ⟨dt, -, rfl⟩⟩ :=
    exec_preemptible_next h
  · exact State.put_grows hc (firstMicro_grows hm) _
  · exact State.put_grows hc (soleStep_grows hm) s.coop
  · exact State.runPending_grows hr
  · exact { State.Grows.refl s with shared := { Shared.Grows.refl s.shared with now := Nat.le_add_right _ dt } }

theorem exec_grows {i : Instr} {s t : State} (h : exec i s = .next t) : s.Grows t :=
  exec_keeps (P := s.Grows) h (fun _ hu hs => hs.trans (exec_preemptible_grows hu))
    (fun _ _ hr hs => hs.trans (State.runPending_grows hr)) (.refl s)

/-- Settles O58: every instruction grows the machine, by its indivisible form and the micro-steps that follow it. -/
theorem tracesOnlyGrow : Obligations.TracesOnlyGrow := by
  intro s t i h
  obtain ⟨⟨hnow, hresp, hevents, hpglog⟩, hchans⟩ := exec_grows h
  refine ⟨hnow, hresp, hevents, hpglog, fun ch c c' hc hc' => ?_⟩
  obtain ⟨d, hd, hgrow⟩ := hchans ch c hc
  obtain rfl : d = c' := Option.some.inj (hd.symm.trans hc')
  exact ⟨hgrow.txlog, hgrow.linelog⟩

end Sys2Proof.Machine

/-!
O7: the packing of byte sequences into payload words (20_memory.md R61).
-/

namespace Sys2Proof

open BitVec in
/-- Byte `k` of a packed word: the bytes above the one looked for are cut off, those below it skipped. -/
theorem packWord_byte (b : Nat → Byte) {k : Nat} (hk : k < 4) :
    (packWord (b 0) (b 1) (b 2) (b 3)).extractLsb' (8 * k) 8 = b k := by
  match k, hk with
  | 0, _ => exact extractLsb'_append_eq_right
  | 1, _ => exact (extractLsb'_append_eq_of_le (by decide)).trans extractLsb'_append_eq_right
  | 2, _ =>
    exact (extractLsb'_append_eq_of_le (by decide)).trans
      ((extractLsb'_append_eq_of_le (by decide)).trans extractLsb'_append_eq_right)
  | 3, _ =>
    exact (extractLsb'_append_eq_of_le (by decide)).trans
      ((extractLsb'_append_eq_of_le (by decide)).trans extractLsb'_append_eq_left)

/-- The first payload word takes the four oldest bytes, zeros where there are fewer; the others hold the rest. -/
theorem packBytes_of_ne_nil {bs : List Byte} (h : bs ≠ []) :
    packBytes bs =
      packWord (bs.getD 0 0) (bs.getD 1 0) (bs.getD 2 0) (bs.getD 3 0) :: packBytes (bs.drop 4) := by
  match bs, h with
  | [_], _ | [_, _], _ | [_, _, _], _ | _ :: _ :: _ :: _ :: _, _ => rfl

/-- Byte `k` of payload word `w`, by descending the words, each of which takes four bytes off the sequence. -/
theorem packBytes_byte (bs : List Byte) (w : Nat) {k : Nat} (hk : k < 4) (hw : w < (packBytes bs).length) :
    (packBytes bs)[w]?.map (·.extractLsb' (8 * k) 8) = some (bs.getD (4 * w + k) 0) := by
  have hne : bs ≠ [] := by rintro rfl; cases hw
  rw [packBytes_of_ne_nil hne] at hw ⊢
  match w with
  | 0 => rw [List.getElem?_cons_zero, Option.map_some, packWord_byte (bs.getD · 0) hk, Nat.mul_zero, Nat.zero_add]
  | w + 1 =>
    rw [List.getElem?_cons_succ, packBytes_byte (bs.drop 4) w hk (Nat.lt_of_succ_lt_succ hw)]
    simp only [List.getD_eq_getElem?_getD, List.getElem?_drop]
    congr 3; omega

end Sys2Proof

namespace Sys2Proof.Machine

/-- Settles O7: byte `i` is byte `i % 4` of word `i / 4`; the encoder and the response port pack with `packBytes`. -/
theorem payloadIsLittleEndian : Obligations.PayloadIsLittleEndian := by
  refine ⟨packBytes_length, fun bs i hi => ?_, fun _ _ _ => rfl, fun _ => rfl⟩
  have hbyte := packBytes_byte bs (i / 4) (Nat.mod_lt i (by decide)) (Nat.div_lt_of_lt_mul hi)
  rwa [Nat.div_add_mod] at hbyte

end Sys2Proof.Machine

/-!
O11: the byte queue primitives (20_memory.md R63 to R67).
-/

namespace Sys2Proof.Machine

/-! ### What each queue primitive answers (20_memory.md R65 to R67) -/

theorem ByteQueue.pop_length (q : ByteQueue) (m : Nat) : (q.pop m).1.length = min m q.data.length := by
  rw [ByteQueue.pop_fst, List.length_take]
  omega

theorem ByteQueue.pop_append (q : ByteQueue) (m : Nat) : (q.pop m).1 ++ (q.pop m).2.data = q.data := by
  rw [ByteQueue.pop_fst, ByteQueue.pop_data, List.take_append_drop]

theorem ByteQueue.pushOne_fst (q : ByteQueue) (b : Byte) :
    (q.pushOne b).1 = decide (q.data.length < q.cap) := by
  obtain ⟨h, e⟩ | ⟨h, e⟩ := q.pushOne_cases b
  · simp [e, h]
  · simp [e, h]

theorem ByteQueue.pushOne_data (q : ByteQueue) (b : Byte) :
    (q.pushOne b).2.data = q.data ++ (if (q.pushOne b).1 then [b] else []) := by
  obtain ⟨-, e⟩ | ⟨-, e⟩ := q.pushOne_cases b
  · simp [e]
  · simp [e]

theorem ByteQueue.popOne_append (q : ByteQueue) : q.popOne.1.toList ++ q.popOne.2.data = q.data := by
  obtain ⟨-, e⟩ | ⟨b, rest, hd, e⟩ := q.popOne_cases
  · simp [e]
  · simp [e, hd]

theorem ByteQueue.popOne_none_iff (q : ByteQueue) : q.popOne.1 = none ↔ q.data = [] := by
  obtain ⟨hd, e⟩ | ⟨b, rest, hd, e⟩ := q.popOne_cases
  · simp [e, hd]
  · simp [e, hd]

/-- Settles O11: each primitive by what it answers and what it leaves in the queue. -/
theorem queuesAreFifo : Obligations.QueuesAreFifo := fun q bs b m hwf =>
  ⟨⟨q.push_fst bs, q.push_data bs, q.push_cap bs, q.push_keeps_wf bs hwf⟩,
    ⟨q.pop_length m, q.pop_append m, q.pop_cap m, q.pop_keeps_wf m hwf⟩,
    ⟨q.pushOne_fst b, q.pushOne_data b, q.pushOne_cap b, q.pushOne_keeps_wf b hwf⟩,
    ⟨q.popOne_append, q.popOne_none_iff, q.popOne_cap, q.popOne_keeps_wf hwf⟩⟩

end Sys2Proof.Machine

/-!
O12: every step keeps the queues within their capacities and changes no parameter (20_memory.md R63, 00_scope.md R6).

Each step changes a queue by at most one primitive: `ByteQueue.Evolves`, which keeps the capacity and the form.
`State.MemoryFits` is the invariant `exec_keeps` then carries to every instruction.
-/

namespace Sys2Proof.Machine

/-! ### A step changes a queue by its primitives only -/

/-- The second queue is the first, or what one primitive of 20_memory.md R64 to R67 leaves of it. -/
inductive ByteQueue.Evolves (q : ByteQueue) : ByteQueue → Prop where
  | same : q.Evolves q
  | push (bs : List Byte) : q.Evolves (q.push bs).2
  | pop (m : Nat) : q.Evolves (q.pop m).2
  | pushOne (b : Byte) : q.Evolves (q.pushOne b).2
  | popOne : q.Evolves q.popOne.2

theorem ByteQueue.Evolves.of_eq {q q' : ByteQueue} (h : q' = q) : q.Evolves q' := h ▸ .same

/-- Taking the head off is `pop_one`. -/
theorem ByteQueue.Evolves.of_cons {q : ByteQueue} {b : Byte} {rest : List Byte} (h : q.data = b :: rest) :
    q.Evolves { q with data := rest } := by
  have hpop : q.popOne.2 = { q with data := rest } := by rw [ByteQueue.popOne, h]
  exact hpop ▸ .popOne

theorem ByteQueue.Evolves.cap_eq {q q' : ByteQueue} (h : q.Evolves q') : q'.cap = q.cap := by
  cases h with
  | same => rfl
  | push bs => exact q.push_cap bs
  | pop m => exact q.pop_cap m
  | pushOne b => exact q.pushOne_cap b
  | popOne => exact q.popOne_cap

theorem ByteQueue.Evolves.keeps_wf {q q' : ByteQueue} (h : q.Evolves q') (hwf : q.wf = true) : q'.wf = true := by
  cases h with
  | same => exact hwf
  | push bs => exact q.push_keeps_wf bs hwf
  | pop m => exact q.pop_keeps_wf m hwf
  | pushOne b => exact q.pushOne_keeps_wf b hwf
  | popOne => exact q.popOne_keeps_wf hwf

/-- Both queues of a channel evolve. -/
structure Channel.QueuesEvolve (c c' : Channel) : Prop where
  wq : c.wq.Evolves c'.wq
  rq : c.rq.Evolves c'.rq

theorem Channel.QueuesEvolve.of_eq {c c' : Channel} (hw : c'.wq = c.wq) (hr : c'.rq = c.rq) : c.QueuesEvolve c' :=
  ⟨.of_eq hw, .of_eq hr⟩

/-- The capacities of a channel's write and read queue (20_memory.md R63). -/
def Channel.queueCaps (c : Channel) : Nat × Nat := (c.wq.cap, c.rq.cap)

theorem Channel.QueuesEvolve.queueCaps_eq {c c' : Channel} (h : c.QueuesEvolve c') : c'.queueCaps = c.queueCaps :=
  Prod.ext h.wq.cap_eq h.rq.cap_eq

/-! ### The micro-steps -/

/-- Only ENQUEUE pushes and only DRAIN pops, each in its `ph0` (41_async_write.md R140, 42_async_read.md R152). -/
theorem firstMicro_queuesEvolve {i : Instr} {f f' : Focus} {p : Option Pending}
    (h : firstMicro i f = some (.ok (f', p))) : f.c.QueuesEvolve f'.c := by
  cases i with
  | init ch lp =>
    obtain ⟨-, rfl, -⟩ := initPh0_ok.1 (Option.some.inj h)
    exact .of_eq rfl rfl
  | attach ch w r =>
    obtain ⟨-, ⟨-, rfl⟩ | ⟨-, -, -, rfl⟩⟩ := attachPh0_ok (Option.some.inj h) <;> exact .of_eq rfl rfl
  | setcb ch en ctx =>
    obtain ⟨-, ⟨-, rfl⟩ | ⟨-, rfl⟩⟩ := setcbPh0_ok (Option.some.inj h) <;> exact .of_eq rfl rfl
  | enqueue ch p bs =>
    obtain ⟨⟨-, hc, -⟩, -⟩ | ⟨-, -, -, rfl, -⟩ := enqueuePh0_ok (Option.some.inj h)
    · rw [hc]; exact .of_eq rfl rfl
    · exact ⟨.push bs, .same⟩
  | arm ch p timeout =>
    obtain ⟨-, hc, -⟩ | ⟨-, -, -, -, rfl, -⟩ := armPh0_ok (Option.some.inj h)
    · rw [hc]; exact .of_eq rfl rfl
    · exact .of_eq rfl rfl
  | cancel ch p =>
    obtain ⟨-, rfl, -⟩ | ⟨-, rfl, -⟩ := cancelPh0_ok.1 (Option.some.inj h) <;> exact .of_eq rfl rfl
  | drain ch max =>
    obtain ⟨-, ⟨-, rfl⟩ | ⟨-, rfl⟩⟩ := drainPh0_ok.1 (Option.some.inj h)
    · exact .of_eq rfl rfl
    · exact ⟨.same, .pop max⟩
  | taskw ch p =>
    obtain ⟨-, h⟩ := Option.ite_none_right_eq_some.1 h
    cases h
    exact .of_eq rfl rfl
  | taskr ch p =>
    obtain ⟨-, h⟩ := Option.ite_none_right_eq_some.1 h
    obtain ⟨-, -, rfl⟩ := taskrPh0_ok.1 (Option.some.inj h)
    exact .of_eq rfl rfl
  | irq | hwload | hwdone | hwrx | tick | costep => cases h

/-- No micro-step after `ph0` touches a queue. -/
theorem runMicro_queues {q : Pending} {ch : Nat} {f f' : Focus} {p : Option Pending}
    (h : runMicro q ch f = .ok (f', p)) : f'.c.wq = f.c.wq ∧ f'.c.rq = f.c.rq := by
  cases q with
  | enqueuePh1 k n => obtain ⟨-, ⟨-, -, rfl⟩ | ⟨-, -, rfl⟩⟩ := enqueuePh1_ok.1 h <;> exact ⟨rfl, rfl⟩
  | enqueuePh2 k n => obtain ⟨rfl, -⟩ := Focus.answer_ok.1 h; exact ⟨rfl, rfl⟩
  | armPh1 => cases h; exact ⟨rfl, rfl⟩
  | armPh2 => obtain ⟨rfl, -⟩ := Focus.answer_ok.1 h; exact ⟨rfl, rfl⟩
  | cancelPh1 => cases h; exact ⟨rfl, rfl⟩
  | cancelPh2 => obtain ⟨-, -, -, rfl⟩ := cancelPh2_ok.1 h; exact ⟨rfl, rfl⟩
  | taskwPh1 => obtain ⟨-, -, hc, -⟩ := taskwPh1_ok h; rw [hc]; exact ⟨rfl, rfl⟩
  | taskrPh1 => cases h; rw [Focus.report_c]; exact ⟨rfl, rfl⟩

/-! ### The indivisible steps outside cooperative context -/

/-- Sub-step 1 pops at most one byte of the write queue (43_interrupt_mux.md R171). -/
theorem irqTransmitEmpty_queues (f : Focus) :
    f.c.wq.Evolves (irqTransmitEmpty f).c.wq ∧ (irqTransmitEmpty f).c.rq = f.c.rq := by
  obtain ⟨-, e⟩ | ⟨-, b, rest, hd, e⟩ | ⟨-, -, e⟩ := irqTransmitEmpty_cases f <;> rw [e]
  · exact ⟨.same, rfl⟩
  · exact ⟨.of_cons hd, rfl⟩
  · exact ⟨.same, rfl⟩

/-- Sub-step 2 touches no queue (43_interrupt_mux.md R172). -/
theorem irqTransmissionComplete_queues {f f' : Focus} (h : irqTransmissionComplete f = .ok f') :
    f'.c.wq = f.c.wq ∧ f'.c.rq = f.c.rq := by
  obtain ⟨-, rfl⟩ | ⟨-, -, rfl⟩ := irqTransmissionComplete_ok.1 h <;> exact ⟨rfl, rfl⟩

/-- Sub-step 3 pushes at most one byte to the read queue (43_interrupt_mux.md R173). -/
theorem irqReceiveNotEmpty_queues {f f' : Focus} (h : irqReceiveNotEmpty f = .ok f') :
    f'.c.wq = f.c.wq ∧ f.c.rq.Evolves f'.c.rq := by
  obtain ⟨-, rfl⟩ | ⟨-, -, rfl⟩ := irqReceiveNotEmpty_ok.1 h
  · exact ⟨rfl, .same⟩
  · exact ⟨rfl, .pushOne _⟩

theorem multiplexer_queuesEvolve {f f' : Focus} (h : multiplexer f = .ok f') : f.c.QueuesEvolve f'.c := by
  obtain ⟨f1, h1, h2⟩ := multiplexer_ok.1 h
  obtain ⟨hw, hr⟩ := irqTransmitEmpty_queues f
  obtain ⟨hw1, hr1⟩ := irqTransmissionComplete_queues h1
  obtain ⟨hw2, hr2⟩ := irqReceiveNotEmpty_queues h2
  exact ⟨by rwa [hw2, hw1], by rwa [hr1, hr] at hr2⟩

theorem soleStep_queuesEvolve {i : Instr} {f f' : Focus} (h : soleStep i f = some (.ok f')) :
    f.c.QueuesEvolve f'.c := by
  cases i with
  | irq ch => exact multiplexer_queuesEvolve (Option.some.inj h)
  | hwload ch | hwdone ch =>
    obtain ⟨-, h⟩ := Option.ite_none_right_eq_some.1 h
    cases h
    exact .of_eq rfl rfl
  | hwrx ch b =>
    obtain ⟨-, h⟩ := Option.ite_none_right_eq_some.1 h
    cases h
    exact .of_eq (Channel.receive_wq _ b) (Channel.receive_rq _ b)
  | init | attach | setcb | enqueue | arm | cancel | drain | taskw | taskr | tick | costep => cases h

/-! ### The machine -/

/-- The capacities of every channel's queues, which are the machine's parameters (00_scope.md R6). -/
def State.queueCaps (s : State) : List (Nat × Nat) := s.chans.map Channel.queueCaps

/-- The memory of a machine with these capacities, in its form (20_memory.md R63). -/
structure State.MemoryFits (caps : List (Nat × Nat)) (s : State) : Prop where
  wf : Memory.wf s = true
  caps_eq : s.queueCaps = caps

/-- Replacing a channel by one with the same capacities changes no parameter. -/
theorem State.put_queueCaps {s : State} {ch : Nat} {c : Channel} {f : Focus} (hc : s.chans[ch]? = some c)
    (h : f.c.queueCaps = c.queueCaps) : (s.put ch f).queueCaps = s.queueCaps := by
  obtain ⟨hlt, rfl⟩ := List.getElem?_eq_some_iff.1 hc
  rw [State.queueCaps, State.put_chans, List.map_set, h, ← List.map_set, List.set_getElem_self, State.queueCaps]

/-- A step on channel `ch` keeps the memory when that channel's queues evolve. -/
theorem State.MemoryFits.put {caps : List (Nat × Nat)} {s : State} (hs : s.MemoryFits caps) {ch : Nat} {c : Channel}
    {f : Focus} (hc : s.chans[ch]? = some c) (h : c.QueuesEvolve f.c) (co : Option Coop) :
    State.MemoryFits caps { s.put ch f with coop := co } where
  wf := by
    obtain ⟨hw, hr⟩ := (Memory.wf_iff s).1 hs.wf c (List.mem_of_getElem? hc)
    exact Memory.put_wf hs.wf ch (h.wq.keeps_wf hw) (h.rq.keeps_wf hr)
  caps_eq := (State.put_queueCaps hc h.queueCaps_eq).trans hs.caps_eq

theorem State.runPending_memoryFits {caps : List (Nat × Nat)} {s t : State} (h : s.runPending = .next t)
    (hs : s.MemoryFits caps) : t.MemoryFits caps := by
  obtain ⟨ch, q, c, f, p, -, hc, hm, rfl⟩ := State.runPending_next.1 h
  obtain ⟨hw, hr⟩ := runMicro_queues hm
  exact hs.put hc (.of_eq hw hr) _

theorem exec_preemptible_memoryFits {caps : List (Nat × Nat)} {i : Instr} {s t : State}
    (h : exec i.preemptible s = .next t) (hs : s.MemoryFits caps) : t.MemoryFits caps := by
  obtain ⟨-, ⟨ch, c, f, p, -, -, hc, hm, rfl⟩ | ⟨ch, c, f, -, hc, hm, rfl⟩ | ⟨-, hr⟩ | ⟨dt, -, rfl⟩⟩ :=
    exec_preemptible_next h
  · exact hs.put hc (firstMicro_queuesEvolve hm) _
  · exact hs.put hc (soleStep_queuesEvolve hm) s.coop
  · exact State.runPending_memoryFits hr hs
  · exact ⟨hs.wf, hs.caps_eq⟩

theorem exec_memoryFits {caps : List (Nat × Nat)} {i : Instr} {s t : State} (h : exec i s = .next t)
    (hs : s.MemoryFits caps) : t.MemoryFits caps :=
  exec_keeps h (fun _ => exec_preemptible_memoryFits) (fun _ _ => State.runPending_memoryFits) hs

/-- Fetching consumes words of the stream and nothing else. -/
theorem State.fetch_ok {s u : State} {i : Instr} (h : s.fetch = .ok (i, u)) :
    ∃ rest, u = { s with stream := rest } := by
  unfold State.fetch at h
  cases hd : decode s.nch s.stream with
  | error e => rw [hd] at h; cases h
  | ok a => rw [hd] at h; cases h; exact ⟨_, rfl⟩

/-- A step fetches a stimulus and runs it. -/
theorem step_next {s t : State} : step s = .next t ↔ ∃ i u, s.fetch = .ok (i, u) ∧ exec i u = .next t := by
  unfold step
  cases s.fetch with
  | error e => simp only [reduceCtorEq, false_and, exists_false]
  | ok a =>
    obtain ⟨i, u⟩ := a
    constructor
    · exact fun h => ⟨i, u, rfl, h⟩
    · rintro ⟨_, _, ⟨⟩, h⟩
      exact h

/-- Settles O12: the stimulus fetched leaves the memory alone, and its meaning keeps it. -/
theorem stepKeepsMemoryWellFormed : Obligations.StepKeepsMemoryWellFormed := by
  intro s t hwf h
  obtain ⟨i, u, hf, hx⟩ := step_next.1 h
  obtain ⟨rest, rfl⟩ := State.fetch_ok hf
  obtain ⟨hwf', hcaps⟩ := exec_memoryFits (caps := s.queueCaps) hx ⟨hwf, rfl⟩
  exact ⟨hwf', hcaps⟩

end Sys2Proof.Machine

/-!
O2, O3, O4: the opcode map, and the round trips of the encoder and the decoder (30_encoding.md R101 to R107, R115 to
R117).

A row of the map is described by what its operation fixes: OP, and the reserved parts of CH, P and ARG. So the decoder
reads exactly the words of four fields in which those parts are zero (`decode_eq_ok_iff`), and each round trip is left
with the operands in ARG and the payload.
-/

namespace Sys2Proof

open BitVec

/-! ### The rows of the opcode map by their fields (30_encoding.md R104) -/

/-- Whether CH carries a channel; in the global stimuli it is reserved (30_encoding.md R101). -/
def Op.usesCh : Op → Bool
  | .tick | .costep => false
  | _ => true

/-- Whether P is the preemptible bit; elsewhere it is reserved (30_encoding.md R102). -/
def Op.usesP : Op → Bool
  | .enqueue | .arm | .cancel | .taskw | .taskr => true
  | _ => false

/-- How many low bits of ARG carry the operands; those above are reserved (30_encoding.md R105 to R107). -/
def Op.argWidth : Op → Nat
  | .init => 1
  | .attach => 2
  | .setcb => 17
  | .enqueue | .hwrx => 8
  | .drain => 16
  | .arm | .tick => 23
  | .cancel | .taskw | .taskr | .irq | .hwload | .hwdone | .costep => 0

/-- The bits an operation fixes: OP, and everything reserved. -/
def Op.fixedBits (op : Op) : Word :=
  allOnes 4 ++ (if op.usesCh then (0 : BitVec 4) else allOnes 4) ++ ofBool (!op.usesP) ++ allOnes 23 <<< op.argWidth

/-- Ties the fields above to the table: a row's mask is what its operation fixes, its pattern the code and zeros. -/
theorem opTable_fields : ∀ r ∈ opTable, r.mask = r.op.fixedBits ∧ r.pattern = stimulusWord r.op 0 false 0 := by decide

theorem opTable_code_inj : ∀ r ∈ opTable, ∀ r' ∈ opTable, r.op.code = r'.op.code → r = r' := by decide

theorem exists_row (op : Op) : ∃ r ∈ opTable, r.op = op := by cases op <;> decide

theorem append_eq_append_iff {m n : Nat} {x x' : BitVec m} {y y' : BitVec n} :
    x ++ y = x' ++ y' ↔ x = x' ∧ y = y' := by
  constructor
  · intro h
    constructor
    · simpa only [extractLsb'_append_eq_left] using congrArg (extractLsb' n m) h
    · simpa only [extractLsb'_append_eq_right] using congrArg (extractLsb' 0 n) h
  · rintro ⟨rfl, rfl⟩
    rfl

/-- The bits from `k` up are clear iff the low `k` bits are all there is. -/
theorem and_high_eq_zero_iff {n k : Nat} {x : BitVec n} :
    x &&& allOnes n <<< k = 0 ↔ (x.setWidth k).setWidth n = x := by
  simp only [eq_of_getLsbD_eq_iff, getLsbD_and, getLsbD_shiftLeft, getLsbD_allOnes, getLsbD_setWidth]
  refine forall₂_congr fun i hi => ?_
  by_cases hk : i < k
  · simp [hk, hi]
  · simp [hk, hi, show i - k < n by omega]

/-- A word is its four fields. -/
theorem stimulusWord_of_fields {w : Word} {op : Op} (h : opField w = op.code) :
    stimulusWord op (chField w) (pField w) (argField w) = w := by
  have hp : ofBool (pField w) = w.extractLsb' 23 1 := by
    refine eq_of_getLsbD_eq fun i hi => ?_
    simp [pField, show i = 0 by omega]
  rw [stimulusWord, ← h, opField, chField, ofNat_toNat, setWidth_eq, hp, argField,
    extractLsb'_append_extractLsb'_eq_extractLsb' (show 28 = 24 + 4 from rfl),
    extractLsb'_append_extractLsb'_eq_extractLsb' (show 24 = 23 + 1 from rfl),
    extractLsb'_append_extractLsb'_eq_extractLsb' (show 23 = 0 + 23 from rfl), extractLsb'_eq_self]

/-- The reserved parts of the four fields are zero. -/
structure Op.ReservedClear (op : Op) (ch : Nat) (p : Bool) (arg : BitVec 23) : Prop where
  ch : (op.usesCh || decide (ch = 0)) = true
  p : (op.usesP || !p) = true
  arg : (arg.setWidth op.argWidth).setWidth 23 = arg

/-- A row spells the words of its operation in which everything reserved is zero (30_encoding.md R104, R115). -/
theorem spells_stimulusWord_iff {r : OpRow} (hr : r ∈ opTable) {op : Op} {ch : Nat} {p : Bool} {arg : BitVec 23}
    (hch : ch < 16) :
    r.spells (stimulusWord op ch p arg) = true ↔ op.code = r.op.code ∧ r.op.ReservedClear ch p arg := by
  obtain ⟨hmask, hpattern⟩ := opTable_fields r hr
  have hc : (BitVec.ofNat 4 ch &&& if r.op.usesCh then (0 : BitVec 4) else allOnes 4) = BitVec.ofNat 4 0 ↔
      (r.op.usesCh || decide (ch = 0)) = true := by
    cases r.op.usesCh
    · simp only [Bool.false_eq_true, if_false, and_allOnes, ← toNat_inj, toNat_ofNat, Nat.mod_eq_of_lt hch,
        Nat.zero_mod, Bool.false_or, decide_eq_true_eq]
    · simp
  have hp : ofBool (p && !r.op.usesP) = ofBool false ↔ (r.op.usesP || !p) = true := by
    rw [ofBool_eq_iff_eq]
    cases r.op.usesP <;> simp
  rw [OpRow.spells, beq_iff_eq, hmask, hpattern, stimulusWord, Op.fixedBits, stimulusWord, and_append,
    and_append, and_append, append_eq_append_iff, append_eq_append_iff, append_eq_append_iff, and_allOnes,
    ofBool_and_ofBool, hc, hp, and_high_eq_zero_iff]
  exact ⟨fun ⟨⟨⟨ho, h1⟩, h2⟩, h3⟩ => ⟨ho, h1, h2, h3⟩, fun ⟨ho, h1, h2, h3⟩ => ⟨⟨⟨ho, h1⟩, h2⟩, h3⟩⟩

/-- Every row fixes all of OP. -/
theorem opField_of_spells {r : OpRow} (hr : r ∈ opTable) {w : Word} (h : r.spells w = true) :
    opField w = r.op.code := by
  obtain ⟨hmask, hpattern⟩ := opTable_fields r hr
  rw [OpRow.spells, beq_iff_eq, hmask, hpattern] at h
  have hop : opField r.op.fixedBits = allOnes 4 := by cases r.op <;> rfl
  calc opField w
      _ = opField (w &&& r.op.fixedBits) := by
        rw [opField, opField, extractLsb'_and, ← opField, ← opField, hop, and_allOnes]
      _ = r.op.code := by rw [h, opField_stimulusWord]

theorem rowOf_eq_some_iff {w : Word} {r : OpRow} : rowOf w = some r ↔ r ∈ opTable ∧ r.op.code = opField w := by
  constructor
  · intro h
    exact ⟨List.mem_of_find?_eq_some h, by simpa using List.find?_some h⟩
  · rintro ⟨hr, hw⟩
    cases h : rowOf w with
    | none => exact absurd hw (by simpa using List.find?_eq_none.1 h r hr)
    | some r' =>
      have hc : r'.op.code = opField w := by simpa using List.find?_some h
      rw [opTable_code_inj r' (List.mem_of_find?_eq_some h) r hr (hc.trans hw.symm)]

/-- Settles O4: a row spells only words with its code, and the codes differ. -/
theorem opcodeRowsAreDisjoint : Obligations.OpcodeRowsAreDisjoint := fun _ r r' hr hr' h h' =>
  opTable_code_inj r hr r' hr' ((opField_of_spells hr h).symm.trans (opField_of_spells hr' h'))

/-- The decoder reads a first word that a row spells, on a channel there is, by the operands of the row's operation. -/
theorem decode_cons_eq_ok_iff {nch : Nat} {w : Word} {ws : List Word} {x : Instr × List Word} :
    decode nch (w :: ws) = .ok x ↔
      ∃ r ∈ opTable, r.spells w = true ∧ chField w < nch ∧ decodeOperands r.op w ws = .ok x := by
  simp only [decode]
  constructor
  · intro h
    cases hrow : rowOf w with
    | none => rw [hrow] at h; cases h
    | some r =>
      have hr := (rowOf_eq_some_iff.1 hrow).1
      simp only [hrow] at h
      split at h
      · cases h
      · split at h
        · cases h
        next hs hch =>
          exact ⟨r, hr, by simpa using hs, by simpa [channelOk] using hch, h⟩
  · rintro ⟨r, hr, hs, hch, h⟩
    simp [rowOf_eq_some_iff.2 ⟨hr, (opField_of_spells hr hs).symm⟩, hs, channelOk, hch, h]

/-! ### The words the decoder reads -/

/-- The decoder reads exactly the words of the four fields in which everything reserved is zero. -/
theorem decode_eq_ok_iff {nch : Nat} {ws : List Word} {y : Instr × List Word} :
    decode nch ws = .ok y ↔ ∃ (op : Op) (ch : Nat) (p : Bool) (arg : BitVec 23) (rest : List Word),
      ws = stimulusWord op ch p arg :: rest ∧ ch < 16 ∧ ch < nch ∧ op.ReservedClear ch p arg ∧
        decodeOperands op (stimulusWord op ch p arg) rest = .ok y := by
  constructor
  · intro h
    cases ws with
    | nil => cases h
    | cons w rest =>
      obtain ⟨r, hr, hs, hch, hops⟩ := decode_cons_eq_ok_iff.1 h
      have hw := stimulusWord_of_fields (opField_of_spells hr hs)
      have h16 : chField w < 16 := isLt _
      have hclear := ((spells_stimulusWord_iff hr h16).1 (hw.symm ▸ hs)).2
      exact ⟨r.op, chField w, pField w, argField w, rest, by rw [hw], h16, hch, hclear, by rwa [hw]⟩
  · rintro ⟨op, ch, p, arg, rest, rfl, h16, hch, hclear, hops⟩
    obtain ⟨r, hr, rfl⟩ := exists_row op
    exact decode_cons_eq_ok_iff.2
      ⟨r, hr, (spells_stimulusWord_iff hr h16).2 ⟨rfl, hclear⟩, by rwa [chField_stimulusWord _ _ _ _ h16], hops⟩

/-! ### The payload of an ENQUEUE (30_encoding.md R105) -/

theorem wordBytes_packWord (b0 b1 b2 b3 : Byte) : wordBytes (packWord b0 b1 b2 b3) = [b0, b1, b2, b3] := by
  have h {k : Nat} (hk : k < 4) := packWord_byte (fun k => [b0, b1, b2, b3].getD k 0) hk
  simp only [wordBytes, List.cons.injEq, and_true]
  exact ⟨h (k := 0) (by decide), h (k := 1) (by decide), h (k := 2) (by decide), h (k := 3) (by decide)⟩

theorem packWord_wordBytes (w : Word) :
    packWord (w.extractLsb' 0 8) (w.extractLsb' 8 8) (w.extractLsb' 16 8) (w.extractLsb' 24 8) = w := by
  rw [packWord, extractLsb'_append_extractLsb'_eq_extractLsb' (show 24 = 16 + 8 from rfl),
    extractLsb'_append_extractLsb'_eq_extractLsb' (show 16 = 8 + 8 from rfl),
    extractLsb'_append_extractLsb'_eq_extractLsb' (show 8 = 0 + 8 from rfl), extractLsb'_eq_self]

/-- The bytes of packed words: those packed, then the zeros that fill the last word. -/
theorem unpackBytes_packBytes : ∀ bs : List Byte,
    ∃ m, unpackBytes (packBytes bs) = bs ++ List.replicate m 0
  | [] => ⟨0, rfl⟩
  | [b0] => ⟨3, by simp only [packBytes, unpackBytes, wordBytes_packWord]; rfl⟩
  | [b0, b1] => ⟨2, by simp only [packBytes, unpackBytes, wordBytes_packWord]; rfl⟩
  | [b0, b1, b2] => ⟨1, by simp only [packBytes, unpackBytes, wordBytes_packWord]; rfl⟩
  | b0 :: b1 :: b2 :: b3 :: rest => by
    obtain ⟨m, hm⟩ := unpackBytes_packBytes rest
    exact ⟨m, by simp only [packBytes, unpackBytes, wordBytes_packWord, hm]; rfl⟩

/-- Cutting off zeros is not seen by a lookup that answers zero beyond the end. -/
theorem getD_take_of_drop_zero {l : List Byte} {n : Nat} (h : ∀ b ∈ l.drop n, b = 0) (i : Nat) :
    (l.take n).getD i 0 = l.getD i 0 := by
  rw [List.getD_eq_getElem?_getD, List.getD_eq_getElem?_getD, List.getElem?_take]
  split
  · rfl
  · cases hi : l[i]? with
    | none => rfl
    | some b =>
      have hmem : (l.drop n)[i - n]? = some b := by rw [List.getElem?_drop, ← hi]; congr 1; omega
      exact (h b (List.mem_of_getElem? hmem)).symm

/-- Words whose bytes from `n` up are zero are the packing of their first `n` bytes. -/
theorem packBytes_take_unpackBytes : ∀ (ws : List Word) (n : Nat), ws.length = payloadWords n →
    (∀ b ∈ (unpackBytes ws).drop n, b = 0) → packBytes ((unpackBytes ws).take n) = ws
  | [], n, _, _ => by rw [unpackBytes, List.take_nil, packBytes]
  | w :: ws, n, hlen, hzero => by
    have hn : 0 < n ∧ ws.length = payloadWords (n - 4) := by
      simp only [payloadWords, List.length_cons] at hlen ⊢
      omega
    have hrest : ((unpackBytes (w :: ws)).take n).drop 4 = (unpackBytes ws).take (n - 4) := by rw [List.drop_take]; rfl
    have hzero' : ∀ b ∈ (unpackBytes ws).drop (n - 4), b = 0 := by
      have hdrop : (unpackBytes ws).drop (n - 4) = (unpackBytes (w :: ws)).drop (4 + (n - 4)) := by
        rw [← List.drop_drop]; rfl
      exact fun b hb => hzero b (List.drop_subset_drop_left _ (by omega) (hdrop ▸ hb))
    rw [packBytes_of_ne_nil (by simp [unpackBytes, wordBytes]; omega), hrest,
      packBytes_take_unpackBytes ws (n - 4) hn.2 hzero']
    simp only [getD_take_of_drop_zero hzero]
    exact congrArg (· :: ws) (packWord_wordBytes w)

theorem decodePayload_eq_ok_iff {n : Nat} {ws rest : List Word} {bs : List Byte} :
    decodePayload n ws = .ok (bs, rest) ↔ bs.length = n ∧ ws = packBytes bs ++ rest := by
  unfold decodePayload
  constructor
  · intro h
    split at h
    · cases h
    next hlen =>
      simp only [List.all_eq_true, beq_iff_eq] at h
      split at h
      next hzero =>
        cases h
        have htake : (ws.take (payloadWords n)).length = payloadWords n := by rw [List.length_take]; omega
        refine ⟨?_, ?_⟩
        · rw [List.length_take, unpackBytes_length, htake, payloadWords]; omega
        · rw [packBytes_take_unpackBytes _ n htake hzero, List.take_append_drop]
      · cases h
  · rintro ⟨rfl, rfl⟩
    obtain ⟨m, hm⟩ := unpackBytes_packBytes bs
    have hlen : (packBytes bs).length = payloadWords bs.length := packBytes_length bs
    rw [if_neg (by rw [List.length_append]; omega)]
    simp [List.take_left' hlen, List.drop_left' hlen, hm]

/-! ### The operands in ARG -/

theorem argBit_stimulusWord {op : Op} {ch : Nat} {p : Bool} {arg : BitVec 23} {i : Nat} (hi : i < 23) :
    (stimulusWord op ch p arg).getLsbD i = arg.getLsbD i := by
  rw [getLsbD_stimulusWord, if_pos hi]

theorem argLow_stimulusWord {op : Op} {ch : Nat} {p : Bool} {arg : BitVec 23} {k : Nat} (hk : k ≤ 23) :
    (stimulusWord op ch p arg).extractLsb' 0 k = arg.setWidth k := by
  rw [stimulusWord, extractLsb'_append_eq_of_add_le (by omega), setWidth_eq_extractLsb' hk]

/-- An operand written into ARG leaves the bits above it clear. -/
theorem setWidth_operand {k : Nat} (x : BitVec k) (hk : k ≤ 23) :
    ((x.setWidth 23).setWidth k).setWidth 23 = x.setWidth 23 := by
  rw [setWidth_setWidth_of_le x hk, setWidth_eq]

/-- So does a number that fits its field. -/
theorem setWidth_operand_ofNat {k n : Nat} (hk : k ≤ 23) (hn : n < 2 ^ k) :
    ((BitVec.ofNat 23 n).setWidth k).setWidth 23 = BitVec.ofNat 23 n := by
  rw [setWidth_ofNat_of_le hk, setWidth_ofNat_of_le_of_lt hk hn]

/-- The bit above the low `k` of a number, put back. -/
theorem ofBool_getLsbD_append_setWidth {n : Nat} (x : BitVec n) (k : Nat) :
    ofBool (x.getLsbD k) ++ x.setWidth k = x.setWidth (1 + k) := by
  refine eq_of_getLsbD_eq fun i hi => ?_
  rw [getLsbD_append, getLsbD_setWidth, getLsbD_setWidth, getLsbD_ofBool]
  by_cases hk : i < k
  · simp [hk, hi]
  · obtain rfl : i = k := by omega
    simp

/-! ### Encoding, then decoding -/

theorem decode_stimulusWord {nch : Nat} {op : Op} {ch : Nat} {p : Bool} {arg : BitVec 23} (rest : List Word)
    {y : Instr × List Word} (hnch : nch ≤ 16) (hch : ch < nch) (hclear : op.ReservedClear ch p arg)
    (h : decodeOperands op (stimulusWord op ch p arg) rest = .ok y) :
    decode nch (stimulusWord op ch p arg :: rest) = .ok y :=
  decode_eq_ok_iff.2 ⟨op, ch, p, arg, rest, rfl, by omega, hch, hclear, h⟩

/-- A well-formed instruction names a channel there is (30_encoding.md R116 (c)). -/
theorem Instr.channel_lt {nch ch : Nat} {i : Instr} (hwf : i.wf nch = true) (h : i.channel? = some ch) : ch < nch := by
  cases i with
  | setcb | enqueue | arm | drain => cases h; exact of_decide_eq_true (Bool.and_eq_true_iff.1 hwf).1
  | tick | costep => cases h
  | _ => cases h; exact of_decide_eq_true hwf

/-- Each instruction's first word has its reserved parts clear, and its operands are read back from their fields. -/
theorem decode_encode {nch : Nat} {i : Instr} (rest : List Word) (hpos : 1 ≤ nch) (hnch : nch ≤ 16)
    (hwf : i.wf nch = true) : decode nch (encode i ++ rest) = .ok (i, rest) := by
  have hch {ch : Nat} : i.channel? = some ch → ch < nch := Instr.channel_lt hwf
  have hf {op : Op} {ch : Nat} {p : Bool} {arg : BitVec 23} (h : i.channel? = some ch) :
      chField (stimulusWord op ch p arg) = ch := chField_stimulusWord _ _ _ _ (by have := hch h; omega)
  cases i with
  | init ch lp =>
    refine decode_stimulusWord rest hnch (hch rfl) ⟨rfl, rfl, setWidth_operand _ (by decide)⟩ ?_
    rw [decodeOperands, hf rfl, argBit_stimulusWord (by decide)]
    cases lp <;> rfl
  | attach ch w r =>
    refine decode_stimulusWord rest hnch (hch rfl) ⟨rfl, rfl, setWidth_operand _ (by decide)⟩ ?_
    rw [decodeOperands, hf rfl, argBit_stimulusWord (by decide), argBit_stimulusWord (by decide)]
    cases w <;> cases r <;> rfl
  | setcb ch en ctx =>
    have hcb : callbackOk en ctx = true := (Bool.and_eq_true_iff.1 hwf).2
    have hen : ((ofBool en ++ ctx).setWidth 23).getLsbD 16 = en := by
      rw [getLsbD_setWidth, getLsbD_append]
      simp
    have hctx : ((ofBool en ++ ctx).setWidth 23).setWidth 16 = ctx := by
      rw [setWidth_setWidth_of_le _ (by decide), setWidth_append_eq_right]
    refine decode_stimulusWord rest hnch (hch rfl) ⟨rfl, rfl, setWidth_operand _ (by decide)⟩ ?_
    rw [decodeOperands, hf rfl, argBit_stimulusWord (by decide), argLow_stimulusWord (by decide), hen,
      hctx, if_pos hcb]
  | enqueue ch p bs =>
    have hlen : bs.length ≤ 255 := of_decide_eq_true (Bool.and_eq_true_iff.1 hwf).2
    have hpayload : decodePayload bs.length (packBytes bs ++ rest) = .ok (bs, rest) :=
      decodePayload_eq_ok_iff.2 ⟨rfl, rfl⟩
    refine decode_stimulusWord (packBytes bs ++ rest) hnch (hch rfl)
      ⟨rfl, rfl, setWidth_operand_ofNat (by decide) (Nat.lt_succ_of_le hlen)⟩ ?_
    rw [decodeOperands, countField_stimulusWord _ _ _ _ hlen, hf rfl, pField_stimulusWord, hpayload]
  | arm ch p timeout =>
    have ht : timeout < 2 ^ 23 := Nat.lt_succ_of_le (of_decide_eq_true (Bool.and_eq_true_iff.1 hwf).2)
    refine decode_stimulusWord rest hnch (hch rfl) ⟨rfl, rfl, setWidth_operand_ofNat (by decide) ht⟩ ?_
    rw [decodeOperands, hf rfl, pField_stimulusWord, argField_stimulusWord, toNat_ofNat, Nat.mod_eq_of_lt ht]
  | drain ch max =>
    have hm : max < 2 ^ 16 := Nat.lt_succ_of_le (of_decide_eq_true (Bool.and_eq_true_iff.1 hwf).2)
    refine decode_stimulusWord rest hnch (hch rfl) ⟨rfl, rfl, setWidth_operand_ofNat (by decide) hm⟩ ?_
    rw [decodeOperands, hf rfl, argLow_stimulusWord (by decide), setWidth_ofNat_of_le (by decide), toNat_ofNat,
      Nat.mod_eq_of_lt hm]
  | hwrx ch b =>
    refine decode_stimulusWord rest hnch (hch rfl) ⟨rfl, rfl, setWidth_operand _ (by decide)⟩ ?_
    rw [decodeOperands, hf rfl, argLow_stimulusWord (by decide), setWidth_setWidth_of_le _ (by decide), setWidth_eq]
  | tick dt =>
    have ht : dt < 2 ^ 23 := Nat.lt_succ_of_le (of_decide_eq_true hwf)
    refine decode_stimulusWord rest hnch hpos ⟨rfl, rfl, setWidth_operand_ofNat (by decide) ht⟩ ?_
    rw [decodeOperands, argField_stimulusWord, toNat_ofNat, Nat.mod_eq_of_lt ht]
  | costep => exact decode_stimulusWord rest hnch hpos ⟨rfl, rfl, rfl⟩ rfl
  | cancel ch p | taskw ch p | taskr ch p =>
    refine decode_stimulusWord rest hnch (hch rfl) ⟨rfl, rfl, rfl⟩ ?_
    rw [decodeOperands, hf rfl, pField_stimulusWord]
  | irq ch | hwload ch | hwdone ch =>
    refine decode_stimulusWord rest hnch (hch rfl) ⟨rfl, rfl, rfl⟩ ?_
    rw [decodeOperands, hf rfl]

/-- Settles O2: operation by operation, in `decode_encode`. -/
theorem decodeOfEncode : Obligations.DecodeOfEncode := fun _ _ rest hpos hnch hwf => decode_encode rest hpos hnch hwf

/-! ### Decoding, then encoding -/

theorem Op.ReservedClear.ch_eq_zero {op : Op} {ch : Nat} {p : Bool} {arg : BitVec 23} (h : op.ReservedClear ch p arg)
    (hop : op.usesCh = false) : ch = 0 := by
  simpa [hop] using h.ch

theorem Op.ReservedClear.p_eq_false {op : Op} {ch : Nat} {p : Bool} {arg : BitVec 23} (h : op.ReservedClear ch p arg)
    (hop : op.usesP = false) : p = false := by
  simpa [hop] using h.p

theorem Op.ReservedClear.arg_eq_zero {op : Op} {ch : Nat} {p : Bool} {arg : BitVec 23} (h : op.ReservedClear ch p arg)
    (hop : op.argWidth = 0) : arg = 0 := by
  have harg := h.arg
  rw [hop, of_length_zero (x := arg.setWidth 0)] at harg
  exact harg.symm

/-- What the operands of a first word decode to is well-formed and spelt by the words read. -/
theorem encode_of_decodeOperands {nch : Nat} {op : Op} {ch : Nat} {p : Bool} {arg : BitVec 23} {ws rest : List Word}
    {i : Instr} (h16 : ch < 16) (hch : ch < nch) (hclear : op.ReservedClear ch p arg)
    (h : decodeOperands op (stimulusWord op ch p arg) ws = .ok (i, rest)) :
    i.wf nch = true ∧ stimulusWord op ch p arg :: ws = encode i ++ rest := by
  have hf := chField_stimulusWord op ch p arg h16
  have hcok : channelOk nch ch = true := decide_eq_true hch
  cases op with
  | init =>
    obtain rfl := hclear.p_eq_false rfl
    have hlp : (ofBool (arg.getLsbD 0)).setWidth 23 = arg := by rw [← setWidth_one]; exact hclear.arg
    rw [decodeOperands, hf, argBit_stimulusWord (by decide)] at h
    cases h
    exact ⟨hcok, by rw [encode, hlp]; rfl⟩
  | attach =>
    obtain rfl := hclear.p_eq_false rfl
    have hwr : (ofBool (arg.getLsbD 1) ++ ofBool (arg.getLsbD 0)).setWidth 23 = arg := by
      rw [← setWidth_one, ofBool_getLsbD_append_setWidth]; exact hclear.arg
    rw [decodeOperands, hf, argBit_stimulusWord (by decide), argBit_stimulusWord (by decide)] at h
    cases h
    exact ⟨hcok, by rw [encode, hwr]; rfl⟩
  | setcb =>
    obtain rfl := hclear.p_eq_false rfl
    have hcb : (ofBool (arg.getLsbD 16) ++ arg.setWidth 16).setWidth 23 = arg := by
      rw [ofBool_getLsbD_append_setWidth]; exact hclear.arg
    rw [decodeOperands, hf, argBit_stimulusWord (by decide), argLow_stimulusWord (by decide)] at h
    split at h
    next hok =>
      cases h
      exact ⟨Bool.and_eq_true_iff.2 ⟨hcok, hok⟩, by rw [encode, hcb]; rfl⟩
    · cases h
  | enqueue =>
    rw [decodeOperands, hf, pField_stimulusWord, argLow_stimulusWord (by decide)] at h
    split at h
    next bs rest' hpay =>
      cases h
      obtain ⟨hlen, rfl⟩ := decodePayload_eq_ok_iff.1 hpay
      have hle : bs.length ≤ 255 := by have := (arg.setWidth 8).isLt; omega
      refine ⟨Bool.and_eq_true_iff.2 ⟨hcok, decide_eq_true hle⟩, ?_⟩
      rw [encode, hlen, ofNat_toNat, show (arg.setWidth 8).setWidth 23 = arg from hclear.arg]
      rfl
    · cases h
  | arm =>
    rw [decodeOperands, hf, pField_stimulusWord, argField_stimulusWord] at h
    cases h
    have hle : arg.toNat ≤ 8388607 := Nat.le_of_lt_succ arg.isLt
    refine ⟨Bool.and_eq_true_iff.2 ⟨hcok, decide_eq_true hle⟩, ?_⟩
    rw [encode, ofNat_toNat, setWidth_eq]
    rfl
  | drain =>
    obtain rfl := hclear.p_eq_false rfl
    rw [decodeOperands, hf, argLow_stimulusWord (by decide)] at h
    cases h
    have hle : (arg.setWidth 16).toNat ≤ 65535 := Nat.le_of_lt_succ (arg.setWidth 16).isLt
    refine ⟨Bool.and_eq_true_iff.2 ⟨hcok, decide_eq_true hle⟩, ?_⟩
    rw [encode, ofNat_toNat, show (arg.setWidth 16).setWidth 23 = arg from hclear.arg]
    rfl
  | hwrx =>
    obtain rfl := hclear.p_eq_false rfl
    rw [decodeOperands, hf, argLow_stimulusWord (by decide)] at h
    cases h
    refine ⟨hcok, ?_⟩
    rw [encode, show (arg.setWidth 8).setWidth 23 = arg from hclear.arg]
    rfl
  | tick =>
    obtain rfl := hclear.ch_eq_zero rfl
    obtain rfl := hclear.p_eq_false rfl
    rw [decodeOperands, argField_stimulusWord] at h
    cases h
    have hle : arg.toNat ≤ 8388607 := Nat.le_of_lt_succ arg.isLt
    refine ⟨decide_eq_true hle, ?_⟩
    rw [encode, ofNat_toNat, setWidth_eq]
    rfl
  | costep =>
    obtain rfl := hclear.arg_eq_zero rfl
    obtain rfl := hclear.ch_eq_zero rfl
    obtain rfl := hclear.p_eq_false rfl
    cases h
    exact ⟨rfl, rfl⟩
  | cancel | taskw | taskr =>
    obtain rfl := hclear.arg_eq_zero rfl
    rw [decodeOperands, hf, pField_stimulusWord] at h
    cases h
    exact ⟨hcok, rfl⟩
  | irq | hwload | hwdone =>
    obtain rfl := hclear.arg_eq_zero rfl
    obtain rfl := hclear.p_eq_false rfl
    rw [decodeOperands, hf] at h
    cases h
    exact ⟨hcok, rfl⟩

/-- Settles O3: a word read has its reserved parts clear, so its operands are all of it. -/
theorem encodeOfDecode : Obligations.EncodeOfDecode := by
  intro nch ws rest i h
  obtain ⟨op, ch, p, arg, ws', rfl, h16, hch, hclear, hops⟩ := decode_eq_ok_iff.1 h
  exact encode_of_decodeOperands h16 hch hclear hops

end Sys2Proof

/-!
O1, O5, O6: what a step does with the words at the head of the stream (30_encoding.md R100, R116, R117).
-/

namespace Sys2Proof.Machine

/-- Settles O1: the decoder computes each. -/
theorem specWordsDecode : Obligations.SpecWordsDecode :=
  ⟨rfl, rfl, rfl, rfl, rfl, rfl, rfl, rfl, rfl, rfl, rfl, rfl, rfl, rfl, rfl, rfl⟩

theorem step_of_decode_ok {s : State} {i : Instr} {rest : List Word} (h : decode s.nch s.stream = .ok (i, rest)) :
    step s = exec i { s with stream := rest } := by
  rw [step, State.fetch, h]

theorem step_of_decode_error {s : State} {e : Illegal} (h : decode s.nch s.stream = .error e) :
    step s = .refused (.illegal e) := by
  rw [step, State.fetch, h]

/-- Settles O6: the fetch consumes what the decoder has read. -/
theorem stepRunsDecodedStimulus : Obligations.StepRunsDecodedStimulus := fun _ _ _ h => step_of_decode_ok h

theorem op_eq_of_code_eq {op op' : Op} (h : op.code = op'.code) : op = op' := by
  obtain ⟨r, hr, rfl⟩ := exists_row op
  obtain ⟨r', hr', rfl⟩ := exists_row op'
  rw [opTable_code_inj r hr r' hr' h]

/-- SETCB's context without a callback is not accepted (30_encoding.md R116 (d)). -/
theorem callbackOk_of_decode_setcb {w : Word} {ws : List Word} {x : Instr × List Word}
    (h : decodeOperands .setcb w ws = .ok x) : callbackOk (w.getLsbD 16) (w.extractLsb' 0 16) = true := by
  rw [decodeOperands] at h
  split at h
  · assumption
  · cases h

/-- ENQUEUE's payload is there and its padding zero (30_encoding.md R116 (e), (f)). -/
theorem payload_of_decode_enqueue {w : Word} {ws : List Word} {x : Instr × List Word}
    (h : decodeOperands .enqueue w ws = .ok x) :
    payloadWords (w.extractLsb' 0 8).toNat ≤ ws.length ∧
      ∀ b ∈ (unpackBytes (ws.take (payloadWords (w.extractLsb' 0 8).toNat))).drop (w.extractLsb' 0 8).toNat, b = 0 := by
  rw [decodeOperands] at h
  split at h
  next bs rest hpay =>
    obtain ⟨hlen, rfl⟩ := decodePayload_eq_ok_iff.1 hpay
    obtain ⟨m, hm⟩ := unpackBytes_packBytes bs
    rw [← hlen, ← packBytes_length, List.take_left' rfl, hm, List.drop_left' rfl, List.length_append]
    exact ⟨Nat.le_add_right _ _, fun b hb => List.eq_of_mem_replicate hb⟩
  · cases h

/-- Settles O5: the decoder reads no such word. -/
theorem illegalStimulusHasNoStep : Obligations.IllegalStimulusHasNoStep := by
  intro s w ws hstream hill
  cases hd : decode s.nch s.stream with
  | error e => exact ⟨e, step_of_decode_error hd⟩
  | ok x =>
    exfalso
    rw [hstream] at hd
    obtain ⟨r, hr, hs, hch, hops⟩ := decode_cons_eq_ok_iff.1 hd
    have hop {op : Op} (h : opField w = op.code) : r.op = op :=
      op_eq_of_code_eq ((opField_of_spells hr hs).symm.trans h)
    obtain hnone | hnch | ⟨hw, hen, hctx⟩ | ⟨hw, -, b, hb, hne⟩ | ⟨hw, hlt⟩ := hill
    · exact Bool.false_ne_true ((hnone r hr).symm.trans hs)
    · omega
    · rw [hop hw] at hops
      have hok := callbackOk_of_decode_setcb hops
      rw [callbackOk, hen, Bool.false_or, decide_eq_true_eq] at hok
      exact hctx hok
    · rw [hop hw] at hops
      exact hne ((payload_of_decode_enqueue hops).2 b hb)
    · rw [hop hw] at hops
      have := (payload_of_decode_enqueue hops).1
      omega

end Sys2Proof.Machine

/-!
O8, O9: the words of the output ports (30_encoding.md R110, R112).
-/

namespace Sys2Proof.Machine

open BitVec

/-- The bits of a response word, from the top, are the five fields concatenated in it. -/
theorem Response.word_fields (r : Response) :
    r.word.extractLsb' 28 4 = r.op.code ∧ r.word.extractLsb' 24 4 = BitVec.ofNat 4 r.ch ∧
      r.word.extractLsb' 20 4 = r.st.code ∧ r.word.extractLsb' 16 4 = 0 ∧
      r.word.extractLsb' 0 16 = BitVec.ofNat 16 r.val := by
  simp only [Response.word, extractLsb'_append_eq_of_le, extractLsb'_append_eq_right, extractLsb'_eq_self,
    Nat.reduceLeDiff, Nat.reduceSub, true_and]

/-- The bits of an event word likewise. -/
theorem Event.word_fields (e : Event) :
    e.word.extractLsb' 28 4 = 0 ∧ e.word.extractLsb' 24 4 = BitVec.ofNat 4 e.ch ∧ e.word.extractLsb' 18 6 = 0 ∧
      e.word.extractLsb' 16 2 = e.kind.code ∧ e.word.extractLsb' 0 16 = e.ctx := by
  simp only [Event.word, extractLsb'_append_eq_of_le, extractLsb'_append_eq_right, extractLsb'_eq_self,
    Nat.reduceLeDiff, Nat.reduceSub, true_and]

/-- Settles O8: the numbers fit their fields, and the codes are `Status.code`. -/
theorem responseWordFields : Obligations.ResponseWordFields := by
  intro r hch hval
  obtain ⟨hop, hchField, hst, hzero, hvalField⟩ := r.word_fields
  refine ⟨hop, ?_, hst, hzero, ?_⟩
  · rw [hchField, toNat_ofNat, Nat.mod_eq_of_lt hch]
  · rw [hvalField, toNat_ofNat, Nat.mod_eq_of_lt hval]

/-- Settles O9: the channel fits its field, and the codes are `EventKind.code`. -/
theorem eventWordFields : Obligations.EventWordFields := by
  intro e hch
  obtain ⟨hzero, hchField, hzero', hkind, hctx⟩ := e.word_fields
  refine ⟨hzero, ?_, hzero', hkind, hctx⟩
  rw [hchField, toNat_ofNat, Nat.mod_eq_of_lt hch]

end Sys2Proof.Machine

/-!
O41, O42: the preemptible form of an operation, and the whole operation as its micro-steps (30_encoding.md R102).
-/

namespace Sys2Proof.Machine

/-! ### The whole operation -/

/-- What follows a step that has a next state. -/
def andThen (x : Result) (k : State → Result) : Result :=
  match x with
  | .next t => k t
  | .fault r => .fault r
  | .refused r => .refused r

theorem State.unfaulted_andThen (s : State) (x : Result) (k : State → Result) :
    andThen (s.unfaulted x) k = s.unfaulted (andThen x k) := by
  unfold State.unfaulted
  cases s.fault <;> rfl

theorem State.cooperative_andThen (s : State) (ch : Nat) (x : Focus → Result) (k : State → Result) :
    andThen (s.cooperative ch x) k = s.cooperative ch fun f => andThen (x f) k := by
  rw [State.cooperative, State.cooperative, State.unfaulted_andThen]
  cases s.coop with
  | some co => rfl
  | none =>
    simp only [State.onChannel]
    cases s.chans[ch]? <;> rfl

theorem requires_andThen (cond : Bool) (why : NotEnabled) (x : Result) (k : State → Result) :
    andThen (requires cond why x) k = requires cond why (andThen x k) := by
  cases cond <;> rfl

/-- Two meanings of an operation that agree where it may start are one. -/
theorem State.cooperative_congr {s : State} {ch : Nat} {x y : Focus → Result} (h : s.fault = none → ∀ f, x f = y f) :
    s.cooperative ch x = s.cooperative ch y := by
  unfold State.cooperative State.unfaulted
  cases hf : s.fault with
  | some r => rfl
  | none => rw [funext (h hf)]

theorem State.runPending_keeps_fault {s t : State} (h : s.runPending = .next t) : t.fault = s.fault := by
  obtain ⟨ch, q, c, f, p, -, -, -, rfl⟩ := State.runPending_next.1 h
  rfl

/-- In a machine that has not faulted the remaining micro-steps are COSTEPs. -/
theorem State.runToEnd_eq_costepsToEnd (n : Nat) {s : State} (hf : s.fault = none) :
    s.runToEnd n = costepsToEnd n s := by
  induction n generalizing s with
  | zero => rfl
  | succ n ih =>
    have hcostep : exec .costep s = s.runPending := by simp only [exec, execCostep, State.unfaulted, hf]
    rw [State.runToEnd, costepsToEnd, hcostep]
    cases s.coop with
    | none => rfl
    | some co =>
      cases hr : s.runPending with
      | next t => exact ih ((State.runPending_keeps_fault hr).trans hf)
      | fault r => rfl
      | refused r => rfl

/-- With P = 0 an operation is its `ph0` and COSTEPs to the end. -/
theorem State.startOperation_whole {s : State} (hf : s.fault = none) (ch : Nat) (m : MicroResult) :
    s.startOperation ch false m = andThen (s.startOperation ch true m) (costepsToEnd 2) := by
  rw [State.startOperation_preempt, State.startOperation]
  cases hm : s.finishMicro ch m with
  | next t =>
    obtain ⟨f, p, -, rfl⟩ := State.finishMicro_next.1 hm
    exact State.runToEnd_eq_costepsToEnd 2 hf
  | fault r => rfl
  | refused r => rfl

/-- Every operation with P = 0 is its preemptible form and COSTEPs to the end. -/
theorem exec_whole {i : Instr} (hp : i.preemptible ≠ i) (s : State) :
    exec i s = andThen (exec i.preemptible s) (costepsToEnd 2) := by
  cases i with
  | enqueue ch p bs | arm ch p timeout | cancel ch p =>
    cases p with
    | true => exact absurd rfl hp
    | false =>
      refine (State.cooperative_congr fun hf f => ?_).trans (State.cooperative_andThen s ch _ _).symm
      rw [State.startOperation_whole hf]
  | taskw ch p | taskr ch p =>
    cases p with
    | true => exact absurd rfl hp
    | false =>
      refine (State.cooperative_congr fun hf f => ?_).trans (State.cooperative_andThen s ch _ _).symm
      rw [requires_andThen, State.startOperation_whole hf]
  | _ => exact absurd rfl hp

theorem andThen_next {x : Result} {k : State → Result} {t : State} :
    andThen x k = .next t ↔ ∃ u, x = .next u ∧ k u = .next t := by
  cases x <;> simp [andThen]

/-- How many micro-steps an operation has left when this one is next. -/
def Pending.left : Pending → Nat
  | .enqueuePh1 _ _ | .armPh1 | .cancelPh1 => 2
  | .enqueuePh2 _ _ | .armPh2 | .cancelPh2 | .taskwPh1 | .taskrPh1 => 1

theorem Pending.left_pos (q : Pending) : 0 < q.left := by cases q <;> exact Nat.succ_pos _

theorem Pending.left_le_two (q : Pending) : q.left ≤ 2 := by
  cases q with
  | enqueuePh1 | armPh1 | cancelPh1 => exact Nat.le_refl 2
  | enqueuePh2 | armPh2 | cancelPh2 | taskwPh1 | taskrPh1 => exact Nat.le_succ 1

/-- A micro-step comes before one with fewer left, or before none. -/
theorem runMicro_left {q q' : Pending} {ch : Nat} {f f' : Focus} (h : runMicro q ch f = .ok (f', some q')) :
    q'.left < q.left := by
  cases q with
  | enqueuePh1 k n => obtain ⟨⟨⟩, -⟩ := enqueuePh1_ok.1 h; exact Nat.lt_succ_self 1
  | armPh1 | cancelPh1 => cases h; exact Nat.lt_succ_self 1
  | enqueuePh2 k n | armPh2 => obtain ⟨-, ⟨⟩⟩ := Focus.answer_ok.1 h
  | cancelPh2 => obtain ⟨⟨⟩, -⟩ := cancelPh2_ok.1 h
  | taskwPh1 => obtain ⟨⟨⟩, -⟩ := taskwPh1_ok h
  | taskrPh1 => cases h

/-- COSTEPs, as many as the operation in flight has left, end it. -/
theorem costepsToEnd_coop (n : Nat) {s t : State} (hn : ∀ co, s.coop = some co → co.next.left ≤ n)
    (h : costepsToEnd n s = .next t) : t.coop = none := by
  induction n generalizing s with
  | zero =>
    cases h
    cases hco : t.coop with
    | none => rfl
    | some co => exact absurd (hn co hco) (Nat.not_le_of_lt co.next.left_pos)
  | succ n ih =>
    rw [costepsToEnd] at h
    cases hco : s.coop with
    | none => rw [hco] at h; cases h; exact hco
    | some co =>
      simp only [hco] at h
      obtain ⟨u, hu, ht⟩ := andThen_next.1 h
      obtain ⟨-, hr⟩ := State.unfaulted_next.1 hu
      obtain ⟨ch, q, c, f, p, hq, -, hm, rfl⟩ := State.runPending_next.1 hr
      refine ih (fun co' hco' => ?_) ht
      obtain ⟨q', rfl, rfl⟩ := Option.map_eq_some_iff.1 hco'
      exact Nat.le_of_lt_succ (Nat.lt_of_lt_of_le (runMicro_left hm) (hn _ hq))

/-- Settles O42: the two are one meaning, and two COSTEPs end every operation. -/
theorem wholeOperationIsItsMicroSteps : Obligations.WholeOperationIsItsMicroSteps := by
  intro i s hp
  refine ⟨exec_whole hp s, fun t h => ?_⟩
  obtain ⟨u, -, hu⟩ := andThen_next.1 ((exec_whole hp s).symm.trans h)
  exact costepsToEnd_coop 2 (fun co _ => co.next.left_le_two) hu

/-! ### The first micro-step alone -/

/-- ENQUEUE `ph0` that accepts a byte pushes and goes on (41_async_write.md R140). -/
theorem enqueuePh0_push {ch : Nat} {bs : List Byte} {f : Focus} (hi : f.c.initialized = true)
    (hw : f.c.wqAttached = true) (hk : (f.c.wq.push bs).1 ≠ 0) :
    enqueuePh0 ch bs f = .ok (⟨{ f.c with wq := (f.c.wq.push bs).2 }, f.g⟩,
      some (.enqueuePh1 (f.c.wq.push bs).1 bs.length)) := by
  simp only [enqueuePh0, hi, hw, hk, Bool.not_true, Bool.false_eq_true, if_false]

/-- ARM `ph0` that passes its three checks stores the timeout and registers the task (42_async_read.md R150). -/
theorem armPh0_register {ch timeout : Nat} {f : Focus} (hi : f.c.initialized = true) (hr : f.c.rqAttached = true)
    (hs : f.c.readState = .idle) (ht : f.c.rt.registered = false) :
    armPh0 ch timeout f =
      .ok (⟨{ f.c with readTimeout := timeout, rt := ⟨true, .ticks (f.g.now + timeout)⟩ }, f.g⟩, some .armPh1) := by
  simp only [armPh0, hi, hr, hs, Slot.register_ok.2 ⟨ht, rfl⟩, Bool.not_true, Bool.false_eq_true, if_false]

/-- Settles O41: each start is its `ph0`, whose outcome under the premises is the one stated. -/
theorem preemptibleStartRunsFirstMicroStep : Obligations.PreemptibleStartRunsFirstMicroStep := by
  rintro s ch c ⟨hf, hco, hc⟩
  refine ⟨?_, ?_, ?_, ?_, ?_⟩
  · rintro bs k hi hw rfl hk
    rw [exec, execEnqueue, State.cooperative_ready hf hco hc, State.startOperation_preempt,
      enqueuePh0_push (f := ⟨c, s.shared⟩) hi hw (Nat.one_le_iff_ne_zero.1 hk)]
    rfl
  · intro timeout hi hr hs ht
    rw [exec, execArm, State.cooperative_ready hf hco hc, State.startOperation_preempt, armPh0_register hi hr hs ht]
    rfl
  · intro hs
    rw [exec, execCancel, State.cooperative_ready hf hco hc, State.startOperation_preempt,
      cancelPh0_ok.2 (.inr ⟨hs, rfl, rfl⟩)]
    rfl
  · intro hreg hdue
    rw [exec, execTaskw, State.cooperative_ready hf hco hc, State.startOperation_preempt,
      Slot.ready_iff.2 ⟨hreg, hdue⟩]
    rfl
  · intro hreg hdue
    rw [exec, execTaskr, State.cooperative_ready hf hco hc, State.startOperation_preempt,
      Slot.ready_iff.2 ⟨hreg, hdue⟩, taskrPh0_ok.2 ⟨rfl, hreg, rfl⟩]
    rfl

end Sys2Proof.Machine

/-!
O43: a legal stimulus has no step exactly under NE1 to NE8 (30_encoding.md R118).
-/

namespace Sys2Proof.Machine

/-! ### What refuses, and by which name -/

theorem State.unfaulted_refused {s : State} {k : Result} {r : Refusal} :
    s.unfaulted k = .refused r ↔ (s.fault ≠ none ∧ r = .notEnabled .ne8) ∨ (s.fault = none ∧ k = .refused r) := by
  unfold State.unfaulted
  cases s.fault <;> simp [eq_comm]

theorem requires_refused {cond : Bool} {why : NotEnabled} {k : Result} {r : Refusal} :
    requires cond why k = .refused r ↔ (cond = false ∧ r = .notEnabled why) ∨ (cond = true ∧ k = .refused r) := by
  cases cond <;> simp [requires, eq_comm]

theorem State.onChannel_refused {s : State} {ch : Nat} {k : Focus → Result} {r : Refusal} (hch : ch < s.nch) :
    s.onChannel ch k = .refused r ↔ ∃ c, s.chans[ch]? = some c ∧ k ⟨c, s.shared⟩ = .refused r := by
  have hc : s.chans[ch]? = some s.chans[ch] := List.getElem?_eq_getElem hch
  simp [State.onChannel, hc]

theorem State.finishStep_ne_refused (s : State) (ch : Nat) (m : Except FaultReason Focus) (r : Refusal) :
    s.finishStep ch m ≠ .refused r := by
  cases m <;> exact nofun

/-- The operation in flight, if any, is on a channel of the machine. -/
def State.CoopOnChannel (s : State) : Prop := ∀ co, s.coop = some co → co.ch < s.nch

theorem State.finishMicro_coopOnChannel {s t : State} {ch : Nat} {m : MicroResult} (hch : ch < s.nch)
    (h : s.finishMicro ch m = .next t) : t.CoopOnChannel := by
  obtain ⟨f, p, -, rfl⟩ := State.finishMicro_next.1 h
  intro co hco
  obtain ⟨q, -, rfl⟩ := Option.map_eq_some_iff.1 hco
  exact (State.put_nch s ch f).symm ▸ hch

theorem State.runPending_refused {s : State} {r : Refusal} (hs : s.CoopOnChannel) (h : s.runPending = .refused r) :
    s.coop = none ∧ r = .notEnabled .ne2 := by
  unfold State.runPending at h
  cases hco : s.coop with
  | none => rw [hco] at h; cases h; exact ⟨rfl, rfl⟩
  | some co =>
    simp only [hco] at h
    obtain ⟨c, -, hm⟩ := (State.onChannel_refused (hs co hco)).1 h
    exact absurd hm (State.finishMicro_ne_refused _ _ _ _)

theorem State.runPending_coopOnChannel {s t : State} (hs : s.CoopOnChannel) (h : s.runPending = .next t) :
    t.CoopOnChannel := by
  obtain ⟨ch, q, c, f, p, hco, hc, hm, rfl⟩ := State.runPending_next.1 h
  exact State.finishMicro_coopOnChannel (hs _ hco) (State.finishMicro_next.2 ⟨f, p, hm, rfl⟩)

theorem State.runToEnd_ne_refused (n : Nat) {s : State} (hs : s.CoopOnChannel) (r : Refusal) :
    s.runToEnd n ≠ .refused r := by
  induction n generalizing s with
  | zero => exact nofun
  | succ n ih =>
    rw [State.runToEnd]
    cases hco : s.coop with
    | none => exact nofun
    | some co =>
      cases hr : s.runPending with
      | next t => exact ih (State.runPending_coopOnChannel hs hr)
      | fault r' => exact nofun
      | refused r' => cases hco.symm.trans (State.runPending_refused hs hr).1

theorem State.startOperation_ne_refused {s : State} {ch : Nat} (hch : ch < s.nch) (p : Bool) (m : MicroResult)
    (r : Refusal) : s.startOperation ch p m ≠ .refused r := by
  unfold State.startOperation
  cases hm : s.finishMicro ch m with
  | next t =>
    cases p with
    | true => exact nofun
    | false => exact State.runToEnd_ne_refused 2 (State.finishMicro_coopOnChannel hch hm) r
  | fault r' => exact nofun
  | refused r' => exact absurd hm (State.finishMicro_ne_refused _ _ _ _)

theorem Slot.ready_false_iff {sl : Slot} {now : Nat} :
    sl.ready now = false ↔ ¬(sl.registered = true ∧ sl.due.reached now = true) := by
  rw [← Slot.ready_iff, Bool.not_eq_true]

/-! ### A refusal is for a reason that holds -/

/-- The refusal names a reason of 30_encoding.md R118 that holds. -/
def NotEnabled.Names (s : State) (i : Instr) (r : Refusal) : Prop :=
  ∃ why : NotEnabled, r = .notEnabled why ∧ why.holds s i

theorem names_of_independent_refused {s : State} {i : Instr} {ch : Nat} {k : Focus → Result} {r : Refusal}
    (hch : ch < s.nch) (h : s.independent ch k = .refused r)
    (hk : ∀ c, s.chans[ch]? = some c → k ⟨c, s.shared⟩ = .refused r → NotEnabled.Names s i r) :
    NotEnabled.Names s i r := by
  obtain ⟨hf, rfl⟩ | ⟨-, h⟩ := State.unfaulted_refused.1 h
  · exact ⟨.ne8, rfl, hf⟩
  · obtain ⟨c, hc, h⟩ := (State.onChannel_refused hch).1 h
    exact hk c hc h

theorem names_of_cooperative_refused {s : State} {i : Instr} {ch : Nat} {k : Focus → Result} {r : Refusal}
    (hch : ch < s.nch) (hi : i.op.startsCooperative = true) (h : s.cooperative ch k = .refused r)
    (hk : ∀ c, s.chans[ch]? = some c → k ⟨c, s.shared⟩ = .refused r → NotEnabled.Names s i r) :
    NotEnabled.Names s i r := by
  obtain ⟨hf, rfl⟩ | ⟨-, h⟩ := State.unfaulted_refused.1 h
  · exact ⟨.ne8, rfl, hf⟩
  · cases hco : s.coop with
    | some co =>
      rw [hco] at h
      cases h
      exact ⟨.ne1, rfl, hi, hco ▸ Option.some_ne_none co⟩
    | none =>
      rw [hco] at h
      obtain ⟨c, hc, h⟩ := (State.onChannel_refused hch).1 h
      exact hk c hc h

theorem names_of_exec_refused {s : State} {i : Instr} {r : Refusal} (hs : s.CoopOnChannel) (hwf : i.wf s.nch = true)
    (h : exec i s = .refused r) : NotEnabled.Names s i r := by
  have hch {ch : Nat} : i.channel? = some ch → ch < s.nch := Instr.channel_lt hwf
  cases i with
  | init ch _ | attach ch _ _ | setcb ch _ _ | drain ch _ =>
    exact names_of_cooperative_refused (hch rfl) rfl h fun _ _ hm => absurd hm (State.finishMicro_ne_refused _ _ _ _)
  | enqueue ch _ _ | arm ch _ _ | cancel ch _ =>
    exact names_of_cooperative_refused (hch rfl) rfl h fun _ _ hm =>
      absurd hm (State.startOperation_ne_refused (hch rfl) _ _ _)
  | taskw ch p =>
    refine names_of_cooperative_refused (hch rfl) rfl h fun c hc hm => ?_
    obtain ⟨hready, rfl⟩ | ⟨-, hm⟩ := requires_refused.1 hm
    · exact ⟨.ne3, rfl, ch, p, c, rfl, hc, Slot.ready_false_iff.1 hready⟩
    · exact absurd hm (State.startOperation_ne_refused (hch rfl) _ _ _)
  | taskr ch p =>
    refine names_of_cooperative_refused (hch rfl) rfl h fun c hc hm => ?_
    obtain ⟨hready, rfl⟩ | ⟨-, hm⟩ := requires_refused.1 hm
    · exact ⟨.ne4, rfl, ch, p, c, rfl, hc, Slot.ready_false_iff.1 hready⟩
    · exact absurd hm (State.startOperation_ne_refused (hch rfl) _ _ _)
  | irq ch =>
    exact names_of_independent_refused (hch rfl) h fun _ _ hm => absurd hm (State.finishStep_ne_refused _ _ _ _)
  | hwload ch =>
    refine names_of_independent_refused (hch rfl) h fun c hc hm => ?_
    obtain ⟨hcond, rfl⟩ | ⟨-, hm⟩ := requires_refused.1 hm
    · exact ⟨.ne5, rfl, ch, c, rfl, hc, fun ⟨h1, h2, h3⟩ => by simp [h1, h2, h3] at hcond⟩
    · exact absurd hm (State.finishStep_ne_refused _ _ _ _)
  | hwdone ch =>
    refine names_of_independent_refused (hch rfl) h fun c hc hm => ?_
    obtain ⟨hcond, rfl⟩ | ⟨-, hm⟩ := requires_refused.1 hm
    · exact ⟨.ne6, rfl, ch, c, rfl, hc, fun ⟨h1, h2⟩ => by simp [h1, h2] at hcond⟩
    · exact absurd hm (State.finishStep_ne_refused _ _ _ _)
  | hwrx ch b =>
    refine names_of_independent_refused (hch rfl) h fun c hc hm => ?_
    obtain ⟨hcond, rfl⟩ | ⟨-, hm⟩ := requires_refused.1 hm
    · exact ⟨.ne7, rfl, ch, b, c, rfl, hc, hcond⟩
    · exact absurd hm (State.finishStep_ne_refused _ _ _ _)
  | tick dt =>
    obtain ⟨hf, rfl⟩ | ⟨-, h⟩ := State.unfaulted_refused.1 h
    · exact ⟨.ne8, rfl, hf⟩
    · cases h
  | costep =>
    obtain ⟨hf, rfl⟩ | ⟨-, h⟩ := State.unfaulted_refused.1 h
    · exact ⟨.ne8, rfl, hf⟩
    · obtain ⟨hco, rfl⟩ := State.runPending_refused hs h
      exact ⟨.ne2, rfl, rfl, hco⟩

/-! ### Every reason refuses -/

/-- Nothing is enabled in a faulted machine (NE8). -/
theorem exec_faulted {s : State} (hf : s.fault ≠ none) (i : Instr) : exec i s = .refused (.notEnabled .ne8) := by
  obtain ⟨r, hr⟩ := Option.ne_none_iff_exists'.1 hf
  cases i <;> simp only [exec, execInit, execAttach, execSetcb, execEnqueue, execArm, execCancel, execDrain, execTaskw,
    execTaskr, execIrq, execHwload, execHwdone, execHwrx, execTick, execCostep, State.cooperative, State.independent,
    State.unfaulted, hr]

/-- No cooperative operation starts while one is in flight (NE1). -/
theorem exec_busy {s : State} {i : Instr} (hf : s.fault = none) (hi : i.op.startsCooperative = true)
    (hco : s.coop ≠ none) : exec i s = .refused (.notEnabled .ne1) := by
  obtain ⟨co, hco⟩ := Option.ne_none_iff_exists'.1 hco
  cases i with
  | irq | hwload | hwdone | hwrx | tick | costep => cases hi
  | _ => simp only [exec, execInit, execAttach, execSetcb, execEnqueue, execArm, execCancel, execDrain, execTaskw,
      execTaskr, State.cooperative, State.unfaulted, hf, hco]

/-- NE8 and NE1 stop every stimulus they list; the others are the stimulus's own condition. -/
theorem exec_refused_of_holds {s : State} {i : Instr} {why : NotEnabled} (h : why.holds s i) :
    ∃ r, exec i s = .refused r := by
  by_cases hf : s.fault = none
  case neg => exact ⟨_, exec_faulted hf i⟩
  by_cases hbusy : i.op.startsCooperative = true ∧ s.coop ≠ none
  case pos => exact ⟨_, exec_busy hf hbusy.1 hbusy.2⟩
  cases why with
  | ne1 => exact absurd h hbusy
  | ne2 =>
    obtain ⟨rfl, hco⟩ := h
    refine ⟨.notEnabled .ne2, ?_⟩
    rw [exec, execCostep]
    exact State.unfaulted_refused.2 (.inr ⟨hf, by rw [State.runPending, hco]⟩)
  | ne3 =>
    obtain ⟨ch, p, c, rfl, hc, hn⟩ := h
    have hco : s.coop = none := Classical.byContradiction fun hco => hbusy ⟨rfl, hco⟩
    refine ⟨.notEnabled .ne3, ?_⟩
    rw [exec, execTaskw, State.cooperative_ready hf hco hc]
    exact requires_refused.2 (.inl ⟨Slot.ready_false_iff.2 hn, rfl⟩)
  | ne4 =>
    obtain ⟨ch, p, c, rfl, hc, hn⟩ := h
    have hco : s.coop = none := Classical.byContradiction fun hco => hbusy ⟨rfl, hco⟩
    refine ⟨.notEnabled .ne4, ?_⟩
    rw [exec, execTaskr, State.cooperative_ready hf hco hc]
    exact requires_refused.2 (.inl ⟨Slot.ready_false_iff.2 hn, rfl⟩)
  | ne5 =>
    obtain ⟨ch, c, rfl, hc, hn⟩ := h
    refine ⟨.notEnabled .ne5, ?_⟩
    rw [exec, execHwload, State.independent_live hf hc]
    exact requires_refused.2 (.inl ⟨by simpa [and_assoc] using hn, rfl⟩)
  | ne6 =>
    obtain ⟨ch, c, rfl, hc, hn⟩ := h
    refine ⟨.notEnabled .ne6, ?_⟩
    rw [exec, execHwdone, State.independent_live hf hc]
    exact requires_refused.2 (.inl ⟨by simpa using hn, rfl⟩)
  | ne7 =>
    obtain ⟨ch, b, c, rfl, hc, hn⟩ := h
    refine ⟨.notEnabled .ne7, ?_⟩
    rw [exec, execHwrx, State.independent_live hf hc]
    exact requires_refused.2 (.inl ⟨hn, rfl⟩)
  | ne8 => exact absurd hf h

/-- Settles O43: a refusal names a reason that holds, and any reason that holds refuses. -/
theorem notEnabledExactlyAsListed : Obligations.NotEnabledExactlyAsListed := by
  intro s i hs hwf
  have hnames {r : Refusal} : exec i s = .refused r → NotEnabled.Names s i r := names_of_exec_refused hs hwf
  refine ⟨⟨fun ⟨r, hr⟩ => ?_, fun ⟨why, h⟩ => exec_refused_of_holds h⟩, fun r => hnames⟩
  obtain ⟨why, -, h⟩ := hnames hr
  exact ⟨why, h⟩

end Sys2Proof.Machine

/-!
O13, O14, O15: INIT, ATTACH and SETCB (40_lifecycle.md R130 to R132).

Each is one micro-step that ends with its response or, for a second INIT and a second attachment, with a fault, so it
leaves no operation in flight: `finishMicro_answer` says so once for every call that answers in its `ph0`.
-/

namespace Sys2Proof.Machine

/-! ### A cooperative operation of one micro-step -/

/-- An operation that ends in its first micro-step leaves nothing in flight, as it found it. -/
theorem State.finishMicro_ended {s : State} (hco : s.coop = none) (ch : Nat) (f : Focus) :
    s.finishMicro ch (.ok (f, none)) = .next (s.put ch f) := by
  simp only [State.finishMicro, State.put, Option.map_none, hco]

/-- A call that answers at once changes its channel and appends its response (30_encoding.md R110). -/
theorem State.finishMicro_answer {s : State} (hco : s.coop = none) (ch : Nat) (f : Focus) (op : Op) (st : Status)
    (val : Nat) (payload : List Byte) :
    s.finishMicro ch (f.answer op ch st val payload) = .next (s.put ch ⟨f.c, f.g.respond op ch st val payload⟩) :=
  State.finishMicro_ended hco ch _

/-! ### The outcomes of ATTACH and SETCB (40_lifecycle.md R131, R132) -/

theorem attachPh0_notInitialized {f : Focus} (hi : f.c.initialized = false) (ch : Nat) (w r : Bool) :
    attachPh0 ch w r f = f.answer .attach ch .notInitialized 0 [] := by
  simp only [attachPh0, hi, Bool.not_false, if_true]

theorem attachPh0_attaches {f : Focus} (hi : f.c.initialized = true) (hw : f.c.wqAttached = false)
    (hr : f.c.rqAttached = false) (ch : Nat) (w r : Bool) :
    attachPh0 ch w r f =
      (⟨{ f.c with wqAttached := w, rqAttached := r }, f.g⟩ : Focus).answer .attach ch .ok 1 [] := by
  simp only [attachPh0, hi, hw, hr, Bool.not_true, Bool.or_self, Bool.false_eq_true, if_false]

theorem setcbPh0_notInitialized {f : Focus} (hi : f.c.initialized = false) (ch : Nat) (en : Bool) (ctx : BitVec 16) :
    setcbPh0 ch en ctx f = f.answer .setcb ch .notInitialized 0 [] := by
  simp only [setcbPh0, hi, Bool.not_false, if_true]

theorem setcbPh0_registers {f : Focus} (hi : f.c.initialized = true) (ch : Nat) (en : Bool) (ctx : BitVec 16) :
    setcbPh0 ch en ctx f = (⟨{ f.c with cbEn := en, cbCtx := ctx }, f.g⟩ : Focus).answer .setcb ch .ok 1 [] := by
  simp only [setcbPh0, hi, Bool.not_true, Bool.false_eq_true, if_false]

/-! ### The obligations -/

/-- Settles O13: INIT of a channel that is down ends in its response, INIT of one that is up is the fault. -/
theorem initBringsUpOnce : Obligations.InitBringsUpOnce := by
  rintro s ch c lp ⟨hf, hco, hc⟩
  rw [exec, execInit, State.cooperative_ready hf hco hc]
  refine ⟨fun hi => ?_, fun hi => ?_⟩
  · rw [initPh0_ok.2 ⟨hi, rfl, rfl⟩, State.finishMicro_ended hco]
    rfl
  · exact State.finishMicro_fault.2 ⟨.reinit, initPh0_error.2 ⟨hi, rfl⟩, rfl⟩

/-- Settles O14: rejected before INIT, the attachment while no queue is attached, and the fault afterwards. -/
theorem attachSuppliesQueuesOnce : Obligations.AttachSuppliesQueuesOnce := by
  rintro s ch c w r ⟨hf, hco, hc⟩
  rw [exec, execAttach, State.cooperative_ready hf hco hc]
  refine ⟨fun hi => ?_, fun hi hw hr => ?_, fun hi ha => ?_⟩
  · rw [attachPh0_notInitialized hi, State.finishMicro_answer hco]
    rfl
  · rw [attachPh0_attaches hi hw hr, State.finishMicro_answer hco]
    rfl
  · exact State.finishMicro_fault.2 ⟨.reattach, attachPh0_error.2 ⟨hi, ha, rfl⟩, rfl⟩

/-- Settles O15: rejected before INIT, and the registration after it. -/
theorem setcbRegistersCallback : Obligations.SetcbRegistersCallback := by
  rintro s ch c en ctx ⟨hf, hco, hc⟩
  rw [exec, execSetcb, State.cooperative_ready hf hco hc]
  refine ⟨fun hi => ?_, fun hi => ?_⟩
  · rw [setcbPh0_notInitialized hi, State.finishMicro_answer hco]
    rfl
  · rw [setcbPh0_registers hi, State.finishMicro_answer hco]
    rfl

end Sys2Proof.Machine

/-!
O59: accepted bytes reach the transmit register in call order (41_async_write.md R142, P1).

`Channel.accepted` is the quantity: what has been sent, then what waits. ENQUEUE's `ph0` appends the accepted prefix to it,
IRQ moves a byte from its second part to its first, and no other step touches it.
-/

namespace Sys2Proof.Machine

/-! ### The bytes accepted so far -/

/-- The bytes a channel has accepted: those written to TDR, then those still queued. -/
def Channel.accepted (c : Channel) : List Byte := c.txlog ++ c.wq.data

theorem acceptedSoFar_eq (s : State) (ch : Nat) : acceptedSoFar s ch = (s.chans[ch]?.map Channel.accepted).getD [] := by
  unfold acceptedSoFar
  cases s.chans[ch]? <;> rfl

theorem acceptedSoFar_of_some {s : State} {ch : Nat} {c : Channel} (h : s.chans[ch]? = some c) :
    acceptedSoFar s ch = c.accepted := by
  rw [acceptedSoFar_eq, h, Option.map_some, Option.getD_some]

theorem Channel.accepted_congr {c c' : Channel} (htx : c'.txlog = c.txlog) (hwq : c'.wq = c.wq) :
    c'.accepted = c.accepted := by
  rw [Channel.accepted, Channel.accepted, htx, hwq]

/-! ### The bytes an instruction is accepted for -/

theorem acceptedBy_enqueue {s : State} {ch : Nat} {c : Channel} (hc : s.chans[ch]? = some c)
    (hi : c.initialized = true) (hw : c.wqAttached = true) (p : Bool) (bs : List Byte) :
    acceptedBy (.enqueue ch p bs) s ch = bs.take (c.wq.push bs).1 := by
  simp only [acceptedBy, hc, hi, hw, and_self, if_true]

/-- An ENQUEUE that fails a check, or accepts no byte, accepts none. -/
theorem acceptedBy_enqueue_rejected {s : State} {ch : Nat} {c : Channel} (hc : s.chans[ch]? = some c) {bs : List Byte}
    (h : c.initialized = false ∨ c.wqAttached = false ∨ (c.wq.push bs).1 = 0) (p : Bool) :
    acceptedBy (.enqueue ch p bs) s ch = [] := by
  simp only [acceptedBy, hc]
  obtain h | h | h := h
  · simp [h]
  · simp [h]
  · rw [h, List.take_zero, ite_self]

/-- Only ENQUEUE is accepted for bytes. -/
theorem acceptedBy_of_op_ne {i : Instr} (h : i.op ≠ .enqueue) (s : State) (ch : Nat) : acceptedBy i s ch = [] := by
  cases i with
  | enqueue ch p bs => exact absurd rfl h
  | _ => rfl

/-- An instruction is accepted for bytes on its own channel only. -/
theorem acceptedBy_of_channel_ne {i : Instr} {ch : Nat} (h : i.channel? ≠ some ch) (s : State) :
    acceptedBy i s ch = [] := by
  cases i with
  | enqueue ch' p bs =>
    have hne : ch' ≠ ch := fun e => h (congrArg some e)
    cases hc : s.chans[ch]? <;> simp [acceptedBy, hc, hne]
  | _ => rfl

/-! ### The steps of one channel -/

/-- ENQUEUE `ph0` appends the accepted prefix (41_async_write.md R140). -/
theorem enqueuePh0_accepted {s : State} {ch : Nat} {c : Channel} (hc : s.chans[ch]? = some c) {bs : List Byte}
    {f : Focus} {q : Option Pending} (h : enqueuePh0 ch bs ⟨c, s.shared⟩ = .ok (f, q)) (p : Bool) :
    f.c.accepted = c.accepted ++ acceptedBy (.enqueue ch p bs) s ch := by
  obtain ⟨⟨-, hfc, -⟩, hrej⟩ | ⟨hi, hw, -, rfl, -⟩ := enqueuePh0_ok h
  · rw [acceptedBy_enqueue_rejected hc hrej, hfc, List.append_nil]
  · rw [acceptedBy_enqueue hc hi hw, Channel.accepted, Channel.accepted, List.append_assoc]
    rfl

/-- The first micro-step of any other operation accepts and sends nothing. -/
theorem firstMicro_keeps_accepted {i : Instr} (hop : i.op ≠ .enqueue) {f f' : Focus} {p : Option Pending}
    (h : firstMicro i f = some (.ok (f', p))) : f'.c.accepted = f.c.accepted := by
  cases i with
  | enqueue ch p bs => exact absurd rfl hop
  | init ch lp =>
    obtain ⟨-, rfl, -⟩ := initPh0_ok.1 (Option.some.inj h)
    rfl
  | attach ch w r => obtain ⟨-, ⟨-, rfl⟩ | ⟨-, -, -, rfl⟩⟩ := attachPh0_ok (Option.some.inj h) <;> rfl
  | setcb ch en ctx => obtain ⟨-, ⟨-, rfl⟩ | ⟨-, rfl⟩⟩ := setcbPh0_ok (Option.some.inj h) <;> rfl
  | arm ch p timeout =>
    obtain ⟨-, hc, -⟩ | ⟨-, -, -, -, rfl, -⟩ := armPh0_ok (Option.some.inj h)
    · rw [hc]
    · rfl
  | cancel ch p => obtain ⟨-, rfl, -⟩ | ⟨-, rfl, -⟩ := cancelPh0_ok.1 (Option.some.inj h) <;> rfl
  | drain ch max => obtain ⟨-, ⟨-, rfl⟩ | ⟨-, rfl⟩⟩ := drainPh0_ok.1 (Option.some.inj h) <;> rfl
  | taskw ch p =>
    obtain ⟨-, h⟩ := Option.ite_none_right_eq_some.1 h
    cases h
    rfl
  | taskr ch p =>
    obtain ⟨-, h⟩ := Option.ite_none_right_eq_some.1 h
    obtain ⟨-, -, rfl⟩ := taskrPh0_ok.1 (Option.some.inj h)
    rfl
  | irq | hwload | hwdone | hwrx | tick | costep => cases h

/-- So the first micro-step appends what the operation is accepted for. -/
theorem firstMicro_accepted {i : Instr} {s : State} {ch : Nat} {c : Channel} (hi : i.channel? = some ch)
    (hc : s.chans[ch]? = some c) {f : Focus} {q : Option Pending}
    (h : firstMicro i ⟨c, s.shared⟩ = some (.ok (f, q))) : f.c.accepted = c.accepted ++ acceptedBy i s ch := by
  by_cases hop : i.op = .enqueue
  · cases i with
    | enqueue ch' p bs =>
      obtain rfl : ch' = ch := Option.some.inj hi
      exact enqueuePh0_accepted hc (Option.some.inj h) p
    | _ => cases hop
  · rw [acceptedBy_of_op_ne hop, List.append_nil, firstMicro_keeps_accepted hop h]

/-- No micro-step after `ph0` accepts or sends a byte. -/
theorem runMicro_accepted {q : Pending} {ch : Nat} {f f' : Focus} {p : Option Pending}
    (h : runMicro q ch f = .ok (f', p)) : f'.c.accepted = f.c.accepted := by
  cases q with
  | enqueuePh1 k n => obtain ⟨-, ⟨-, -, rfl⟩ | ⟨-, -, rfl⟩⟩ := enqueuePh1_ok.1 h <;> rfl
  | enqueuePh2 k n | armPh2 => obtain ⟨rfl, -⟩ := Focus.answer_ok.1 h; rfl
  | armPh1 | cancelPh1 => cases h; rfl
  | cancelPh2 => obtain ⟨-, -, -, rfl⟩ := cancelPh2_ok.1 h; rfl
  | taskwPh1 => obtain ⟨-, -, hc, -⟩ := taskwPh1_ok h; rw [hc]; rfl
  | taskrPh1 => cases h; rw [Focus.report_c]

/-- Sub-step 1 moves the oldest byte from the queue to the end of `txlog`, or moves none (43_interrupt_mux.md R171). -/
theorem irqTransmitEmpty_accepted (f : Focus) : (irqTransmitEmpty f).c.accepted = f.c.accepted := by
  obtain ⟨-, e⟩ | ⟨-, b, rest, hd, e⟩ | ⟨-, -, e⟩ := irqTransmitEmpty_cases f <;> rw [e]
  · rw [Channel.accepted, Channel.accepted, hd, Channel.writeTdr_txlog, Channel.writeTdr_wq, List.append_assoc,
      List.singleton_append]
  · rfl

theorem multiplexer_accepted {f f' : Focus} (h : multiplexer f = .ok f') : f'.c.accepted = f.c.accepted := by
  obtain ⟨f1, h1, h2⟩ := multiplexer_ok.1 h
  have hcomplete : f1.c.accepted = (irqTransmitEmpty f).c.accepted := by
    obtain ⟨-, rfl⟩ | ⟨-, -, rfl⟩ := irqTransmissionComplete_ok.1 h1 <;> rfl
  have hreceive : f'.c.accepted = f1.c.accepted := by
    obtain ⟨-, rfl⟩ | ⟨-, -, rfl⟩ := irqReceiveNotEmpty_ok.1 h2 <;> rfl
  rw [hreceive, hcomplete, irqTransmitEmpty_accepted]

theorem soleStep_accepted {i : Instr} {f f' : Focus} (h : soleStep i f = some (.ok f')) :
    f'.c.accepted = f.c.accepted := by
  cases i with
  | irq ch => exact multiplexer_accepted (Option.some.inj h)
  | hwload ch | hwdone ch =>
    obtain ⟨-, h⟩ := Option.ite_none_right_eq_some.1 h
    cases h
    rfl
  | hwrx ch b =>
    obtain ⟨-, h⟩ := Option.ite_none_right_eq_some.1 h
    cases h
    rw [Channel.accepted, Channel.receive_txlog, Channel.receive_wq, Channel.accepted]
  | init | attach | setcb | enqueue | arm | cancel | drain | taskw | taskr | tick | costep => cases h

/-- A step outside cooperative context is accepted for nothing. -/
theorem acceptedBy_of_soleStep {i : Instr} {f : Focus} {m : Except FaultReason Focus} (h : soleStep i f = some m)
    (s : State) (ch : Nat) : acceptedBy i s ch = [] := by
  cases i with
  | enqueue ch' p bs => cases h
  | _ => rfl

/-! ### The machine -/

/-- A step that appends `bs` on channel `ch` appends nothing on the others. -/
theorem State.put_acceptedSoFar {s : State} {ch : Nat} {c : Channel} {f : Focus} {bs : Nat → List Byte}
    (hc : s.chans[ch]? = some c) (hsame : f.c.accepted = c.accepted ++ bs ch) (hother : ∀ ch', ch ≠ ch' → bs ch' = [])
    (co : Option Coop) (ch' : Nat) :
    acceptedSoFar { s.put ch f with coop := co } ch' = acceptedSoFar s ch' ++ bs ch' := by
  by_cases e : ch = ch'
  · subst e
    have hput := State.put_same s ch f (List.getElem?_eq_some_iff.1 hc).1
    rw [acceptedSoFar_of_some hc, ← hsame]
    exact acceptedSoFar_of_some hput
  · rw [hother ch' e, List.append_nil, acceptedSoFar_eq, acceptedSoFar_eq, ← State.put_other s ch ch' f e]

/-- A step that appends nothing on its channel appends nothing at all. -/
theorem State.put_keeps_acceptedSoFar {s : State} {ch : Nat} {c : Channel} {f : Focus} (hc : s.chans[ch]? = some c)
    (h : f.c.accepted = c.accepted) (co : Option Coop) (ch' : Nat) :
    acceptedSoFar { s.put ch f with coop := co } ch' = acceptedSoFar s ch' := by
  have hput := State.put_acceptedSoFar (bs := fun _ => []) hc (by rw [h, List.append_nil]) (fun _ _ => rfl) co ch'
  rwa [List.append_nil] at hput

theorem State.runPending_acceptedSoFar {s t : State} (h : s.runPending = .next t) (ch : Nat) :
    acceptedSoFar t ch = acceptedSoFar s ch := by
  obtain ⟨ch', q, c, f, p, -, hc, hm, rfl⟩ := State.runPending_next.1 h
  exact State.put_keeps_acceptedSoFar hc (runMicro_accepted hm) _ ch

theorem exec_preemptible_acceptedSoFar {i : Instr} {s t : State} (h : exec i.preemptible s = .next t) (ch : Nat) :
    acceptedSoFar t ch = acceptedSoFar s ch ++ acceptedBy i s ch := by
  obtain ⟨-, ⟨ch', c, f, p, -, hi, hc, hm, rfl⟩ | ⟨ch', c, f, -, hc, hm, rfl⟩ | ⟨rfl, hr⟩ | ⟨dt, rfl, rfl⟩⟩ :=
    exec_preemptible_next h
  · refine State.put_acceptedSoFar hc (firstMicro_accepted hi hc hm) (fun ch'' hne => ?_) _ ch
    exact acceptedBy_of_channel_ne (fun e => hne (Option.some.inj (hi.symm.trans e))) s
  · rw [acceptedBy_of_soleStep hm, List.append_nil]
    exact State.put_keeps_acceptedSoFar hc (soleStep_accepted hm) s.coop ch
  · exact (State.runPending_acceptedSoFar hr ch).trans (List.append_nil _).symm
  · exact (List.append_nil _).symm

/-- Every instruction appends the bytes it is accepted for: its first micro-step does, the others append none. -/
theorem exec_acceptedSoFar {i : Instr} {s t : State} (h : exec i s = .next t) (ch : Nat) :
    acceptedSoFar t ch = acceptedSoFar s ch ++ acceptedBy i s ch := by
  obtain ⟨u, hu, ht⟩ := exec_next_split h
  have hfirst := exec_preemptible_acceptedSoFar hu ch
  obtain rfl | ht := ht
  · exact hfirst
  · exact State.runToEnd_keeps (P := fun v => acceptedSoFar v ch = acceptedSoFar s ch ++ acceptedBy i s ch)
      (fun _ _ hr hv => (State.runPending_acceptedSoFar hr ch).trans hv) 2 u t ht hfirst

/-! ### Runs -/

theorem execAll_cons {i : Instr} {is : List Instr} {s t : State} :
    execAll (i :: is) s = some t ↔ ∃ u, exec i s = .next u ∧ execAll is u = some t := by
  rw [execAll]
  cases exec i s <;> simp

theorem acceptedOver_cons {i : Instr} {s u : State} (h : exec i s = .next u) (is : List Instr) (ch : Nat) :
    acceptedOver (i :: is) s ch = acceptedBy i s ch ++ acceptedOver is u ch := by
  rw [acceptedOver, h]

theorem execAll_acceptedSoFar {is : List Instr} {s t : State} (h : execAll is s = some t) (ch : Nat) :
    acceptedSoFar t ch = acceptedSoFar s ch ++ acceptedOver is s ch := by
  induction is generalizing s with
  | nil => cases h; exact (List.append_nil _).symm
  | cons i is ih =>
    obtain ⟨u, hu, ht⟩ := execAll_cons.1 h
    rw [ih ht, exec_acceptedSoFar hu, acceptedOver_cons hu, List.append_assoc]

/-! ### Reset (10_state.md R54) -/

/-- What has been accepted is specified in every state. -/
theorem acceptedSoFar_known (s : State) (ch : Nat) : acceptedSoFar s.known ch = acceptedSoFar s ch := by
  rw [acceptedSoFar_eq, acceptedSoFar_eq, State.known, List.getElem?_map, Option.map_map]
  rfl

theorem acceptedSoFar_resetWith (p : Params) (ch : Nat) : acceptedSoFar (State.resetWith p) ch = [] := by
  rw [acceptedSoFar_eq, State.resetWith, List.getElem?_map, Option.map_map]
  cases p.caps[ch]? <;> rfl

/-- At reset nothing has been accepted. -/
theorem IsReset.acceptedSoFar_eq_nil {p : Params} {s : State} (h : IsReset p s) (ch : Nat) :
    acceptedSoFar s ch = [] :=
  calc acceptedSoFar s ch = acceptedSoFar { s with stream := [] : State } ch := rfl
    _ = acceptedSoFar (State.resetWith p) ch := by rw [← acceptedSoFar_known, h, acceptedSoFar_known]
    _ = [] := acceptedSoFar_resetWith p ch

/-- Settles O59: along a run each instruction appends what it is accepted for, and `txlog` is the part already sent. -/
theorem acceptedBytesAreSentInOrder : Obligations.AcceptedBytesAreSentInOrder := by
  refine ⟨fun is s t ch h => execAll_acceptedSoFar h ch, fun p is s t ch c hreset h hc => ?_⟩
  have hall := execAll_acceptedSoFar h ch
  rw [hreset.acceptedSoFar_eq_nil, List.nil_append, acceptedSoFar_of_some hc] at hall
  exact hall ▸ List.prefix_append c.txlog c.wq.data

end Sys2Proof.Machine

/-!
O18 to O21: ENQUEUE and TASKW with P = 0 (41_async_write.md R140, R141).

A whole operation is its micro-steps in a row on one channel: `State.startOperation_two` and `State.startOperation_three`
commit what the last of them leaves. What is left for an operation is then to say what its micro-steps answer.
-/

namespace Sys2Proof.Machine

/-! ### An operation of one, two or three micro-steps, run whole -/

/-- The state in which micro-step `q` of an operation on channel `ch` comes next, `f` being what the earlier ones left. -/
def State.midway (s : State) (ch : Nat) (f : Focus) (q : Option Pending) : State :=
  { s.put ch f with coop := q.map fun q => ⟨ch, q⟩ }

theorem State.midway_none {s : State} (hco : s.coop = none) (ch : Nat) (f : Focus) : s.midway ch f none = s.put ch f := by
  simp only [State.midway, State.put, Option.map_none, hco]

/-- One more micro-step of the operation in flight. -/
theorem State.runToEnd_midway {s : State} {ch : Nat} {f f' : Focus} {q : Pending} {q' : Option Pending}
    (hch : ch < s.chans.length) (h : runMicro q ch f = .ok (f', q')) (n : Nat) :
    (s.midway ch f (some q)).runToEnd (n + 1) = (s.midway ch f' q').runToEnd n := by
  have hstep : (s.midway ch f (some q)).runPending = .next (s.midway ch f' q') :=
    State.runPending_next.2 ⟨ch, q, f.c, f', q', rfl, State.put_same s ch f hch, h, by
      simp only [State.midway, State.put, List.set_set]⟩
  rw [State.runToEnd, hstep]
  rfl

/-- An operation that ends in its `ph0`, preemptible or not. -/
theorem State.startOperation_ended {s : State} (hco : s.coop = none) (ch : Nat) (p : Bool) (f : Focus) :
    s.startOperation ch p (.ok (f, none)) = .next (s.put ch f) := by
  rw [State.startOperation, State.finishMicro_ended hco]
  cases p with
  | true => rfl
  | false => simp only [State.runToEnd, State.put_coop, hco, Bool.false_eq_true, if_false]

/-- An operation of two micro-steps. -/
theorem State.startOperation_two {s : State} (hco : s.coop = none) {ch : Nat} (hch : ch < s.chans.length)
    {f0 f1 : Focus} {q : Pending} (h : runMicro q ch f0 = .ok (f1, none)) :
    s.startOperation ch false (.ok (f0, some q)) = .next (s.put ch f1) :=
  calc s.startOperation ch false (.ok (f0, some q))
    _ = (s.midway ch f0 (some q)).runToEnd 2 := rfl
    _ = (s.midway ch f1 none).runToEnd 1 := State.runToEnd_midway hch h 1
    _ = .next (s.midway ch f1 none) := rfl
    _ = .next (s.put ch f1) := by rw [State.midway_none hco]

/-- An operation of three. -/
theorem State.startOperation_three {s : State} (hco : s.coop = none) {ch : Nat} (hch : ch < s.chans.length)
    {f0 f1 f2 : Focus} {q q' : Pending} (h : runMicro q ch f0 = .ok (f1, some q'))
    (h' : runMicro q' ch f1 = .ok (f2, none)) :
    s.startOperation ch false (.ok (f0, some q)) = .next (s.put ch f2) :=
  calc s.startOperation ch false (.ok (f0, some q))
    _ = (s.midway ch f0 (some q)).runToEnd 2 := rfl
    _ = (s.midway ch f1 (some q')).runToEnd 1 := State.runToEnd_midway hch h 1
    _ = (s.midway ch f2 none).runToEnd 0 := State.runToEnd_midway hch h' 0
    _ = .next (s.put ch f2) := by rw [State.runToEnd, State.midway_none hco]

/-! ### What the power gate becomes (60_exceptions.md R230 to R233) -/

theorem Shared.acquireWrite_eq (g : Shared) (lp : Bool) :
    g.acquireWrite lp = { g with
      hfCount := if lp then g.hfCount else g.hfCount + 1
      dsCount := if lp then g.dsCount + 1 else g.dsCount
      pglog := g.pglog ++ [if lp then .supDs else .enHf] } := by
  cases lp <;> rfl

theorem Shared.releaseWrite_ok {g g' : Shared} {lp : Bool} :
    g.releaseWrite lp = .ok g' ↔ (if lp then g.dsCount else g.hfCount) ≠ 0 ∧
      g' = { g with
        hfCount := if lp then g.hfCount else g.hfCount - 1
        dsCount := if lp then g.dsCount - 1 else g.dsCount
        pglog := g.pglog ++ [if lp then .alwDs else .disHf] } := by
  cases lp
  · exact Shared.disableHf_ok
  · exact Shared.allowDs_ok

/-! ### ENQUEUE (41_async_write.md R140) -/

/-- A push that accepts nothing leaves the queue. -/
theorem ByteQueue.push_of_fst_eq_zero {q : ByteQueue} {bs : List Byte} (h : (q.push bs).1 = 0) :
    (q.push bs).2 = q := by
  rw [ByteQueue.push_fst] at h
  rw [ByteQueue.push, h, List.take_zero, List.append_nil]

/-- ENQUEUE `ph0` that accepts nothing answers. -/
theorem enqueuePh0_accepts_none {ch : Nat} {bs : List Byte} {f : Focus} (hi : f.c.initialized = true)
    (hw : f.c.wqAttached = true) (hk : (f.c.wq.push bs).1 = 0) :
    enqueuePh0 ch bs f = f.answer .enqueue ch (if bs = [] then .ok else .queueFull) 0 [] := by
  have hkept : ({ f.c with wq := (f.c.wq.push bs).2 } : Channel) = f.c := by rw [ByteQueue.push_of_fst_eq_zero hk]
  rw [enqueuePh0, if_neg (by simp [hi]), if_neg (by simp [hw])]
  simp only [hk, hkept, List.length_eq_zero_iff, if_true]

/-- ENQUEUE that accepts a byte leaves what its `ph1` does to the channel with the bytes queued, TXEIE set and the count
answered. -/
theorem exec_enqueue_whole {s : State} {ch : Nat} {c : Channel} (hs : Ready s ch c) {bs : List Byte}
    (hi : c.initialized = true) (hw : c.wqAttached = true) {k : Nat} (hk : k = (c.wq.push bs).1) (hpos : 1 ≤ k)
    {f : Focus} {p : Option Pending}
    (h : enqueuePh1 k bs.length ⟨{ c with wq := (c.wq.push bs).2 }, s.shared⟩ = .ok (f, p)) :
    exec (.enqueue ch false bs) s = .next (s.put ch
      ⟨f.c.setTxeie true, f.g.respond .enqueue ch (if k = bs.length then .ok else .queueFull) k []⟩) := by
  obtain ⟨hf, hco, hc⟩ := hs
  obtain ⟨rfl, -⟩ := enqueuePh1_ok.1 h
  rw [exec, execEnqueue, State.cooperative_ready hf hco hc,
    enqueuePh0_push (f := ⟨c, s.shared⟩) hi hw (hk ▸ Nat.one_le_iff_ne_zero.1 hpos), ← hk]
  exact State.startOperation_three hco (List.getElem?_eq_some_iff.1 hc).1 h rfl

/-- Settles O18: the operation ends in its `ph0`, with the queue as it was. -/
theorem enqueueOfNothingChangesNothing : Obligations.EnqueueOfNothingChangesNothing := by
  rintro s ch c p bs ⟨hf, hco, hc⟩ hi hw hk
  rw [exec, execEnqueue, State.cooperative_ready hf hco hc,
    enqueuePh0_accepts_none (f := ⟨c, s.shared⟩) hi hw ((c.wq.push_fst bs).trans hk)]
  exact State.startOperation_ended hco ch p _

/-- Settles O19: from Idle `ph1` registers the task and acquires. -/
theorem enqueueStartsDraining : Obligations.EnqueueStartsDraining := by
  intro s ch c bs k hs hi hw hk hpos hidle hreg
  rw [exec_enqueue_whole hs hi hw hk hpos (enqueuePh1_ok.2 ⟨rfl, .inl ⟨hidle, hreg, rfl⟩⟩), Shared.acquireWrite_eq, hk]
  rfl

/-- Settles O20: while Draining `ph1` only re-arms. -/
theorem enqueueContinuesDraining : Obligations.EnqueueContinuesDraining := by
  intro s ch c bs k hs hi hw hk hpos hdraining hreg
  rw [exec_enqueue_whole hs hi hw hk hpos (enqueuePh1_ok.2 ⟨rfl, .inr ⟨hdraining, hreg, rfl⟩⟩), hk]
  rfl

/-! ### TASKW (41_async_write.md R141) -/

/-- TASKW `ph1` completes when its slot is registered and there is something to release: no other cause stops it. -/
theorem taskwPh1_completes {ch : Nat} {f : Focus} (hreg : f.c.wt.registered = true)
    (hheld : (if f.c.lp then f.g.dsCount else f.g.hfCount) ≠ 0) : ∃ f', taskwPh1 ch f = .ok (f', none) := by
  cases hm : taskwPh1 ch f with
  | ok x =>
    obtain ⟨f', p⟩ := x
    obtain ⟨rfl, -⟩ := taskwPh1_ok hm
    exact ⟨f', rfl⟩
  | error r =>
    obtain ⟨hunreg, -⟩ | ⟨-, -, hnone⟩ := taskwPh1_error hm
    · exact absurd (hunreg.symm.trans hreg) Bool.false_ne_true
    · exact absurd hnone hheld

/-- Settles O21: `ph0` leaves the slot and the counters for `ph1`, which completes. -/
theorem taskwCompletesTheWrite : Obligations.TaskwCompletesTheWrite := by
  rintro s ch c ⟨hf, hco, hc⟩ hreg hdue hheld
  obtain ⟨⟨c', g'⟩, hph1⟩ := taskwPh1_completes (ch := ch) (f := ⟨{ c with writeState := .idle }, s.shared⟩) hreg hheld
  obtain ⟨-, -, rfl, g, hrelease, rfl⟩ := taskwPh1_ok hph1
  obtain ⟨-, rfl⟩ := Shared.releaseWrite_ok.1 hrelease
  refine ⟨Config.freeDue s.shared.draws, s.shared.draws + 1, ?_⟩
  rw [exec, execTaskw, State.cooperative_ready hf hco hc, Slot.ready_iff.2 ⟨hreg, hdue⟩]
  exact State.startOperation_two hco (List.getElem?_eq_some_iff.1 hc).1 hph1

end Sys2Proof.Machine

/-!
O22 to O28: ARM, CANCEL, DRAIN and TASKR (42_async_read.md R150 to R154).

Each whole operation is what its micro-steps leave, committed by the rules for operations of one, two and three
micro-steps. The read window and scenario E then chain two of these outcomes, and need beside them only that ARM
succeeds on an unregistered slot alone and that an Armed channel's clock request is counted.
-/

namespace Sys2Proof.Machine

/-! ### States where the next operation may be issued -/

/-- After an operation on the channel that left nothing in flight. -/
theorem Ready.put {s : State} {ch : Nat} {c : Channel} (h : Ready s ch c) (f : Focus) : Ready (s.put ch f) ch f.c := by
  obtain ⟨hf, hco, hc⟩ := h
  exact ⟨hf, hco, State.put_same s ch f (List.getElem?_eq_some_iff.1 hc).1⟩

/-- Readiness does not speak of what the channels share. -/
theorem Ready.setShared {s : State} {ch : Nat} {c : Channel} (h : Ready s ch c) (g : Shared) :
    Ready { s with shared := g } ch c := h

theorem Ready.ch_lt {s : State} {ch : Nat} {c : Channel} (h : Ready s ch c) : ch < s.chans.length :=
  (List.getElem?_eq_some_iff.1 h.2.2).1

/-- TICK in a machine that has not stopped (44_environment.md R184). -/
theorem exec_tick {s : State} (hf : s.fault = none) (dt : Nat) :
    exec (.tick dt) s = .next { s with shared := { s.shared with now := s.shared.now + dt } } :=
  State.unfaulted_next.2 ⟨hf, rfl⟩

/-! ### ARM (42_async_read.md R150) -/

/-- ARM `ph0` on an Armed channel answers at once. -/
theorem armPh0_alreadyActive {f : Focus} (hi : f.c.initialized = true) (hr : f.c.rqAttached = true)
    (hs : f.c.readState = .armed) (ch timeout : Nat) :
    armPh0 ch timeout f = f.answer .arm ch .alreadyActive 0 [] := by
  simp only [armPh0, hi, hr, hs, Bool.not_true, Bool.false_eq_true, if_false]

/-- ARM `ph0` that passes its checks faults on a slot that is registered (60_exceptions.md R224). -/
theorem armPh0_badSlot {f : Focus} (hi : f.c.initialized = true) (hr : f.c.rqAttached = true)
    (hs : f.c.readState = .idle) (ht : f.c.rt.registered = true) (ch timeout : Nat) :
    armPh0 ch timeout f = .error .schedBadSlot := by
  simp only [armPh0, hi, hr, hs, Slot.register_error.2 ⟨ht, rfl⟩, Bool.not_true, Bool.false_eq_true, if_false]

/-- Settles O22: `ph0` registers the task, and the two micro-steps after it never stop. -/
theorem armStartsSupervision : Obligations.ArmStartsSupervision := by
  intro s ch c timeout hready hi hr hs ht
  have ⟨hf, hco, hc⟩ := hready
  rw [exec, execArm, State.cooperative_ready hf hco hc, armPh0_register hi hr hs ht]
  exact State.startOperation_three hco hready.ch_lt rfl rfl

/-- Settles O23: the call ends in its `ph0`, with P = 0 or 1. -/
theorem armIsNotReentrant : Obligations.ArmIsNotReentrant := by
  rintro s ch c p timeout ⟨hf, hco, hc⟩ hi hr hs
  rw [exec, execArm, State.cooperative_ready hf hco hc, armPh0_alreadyActive (f := ⟨c, s.shared⟩) hi hr hs]
  exact State.startOperation_ended hco ch p _

/-- An ARM that passes its checks and does not fault found its slot unregistered. -/
theorem rt_unregistered_of_exec_arm {s t : State} {ch : Nat} {c : Channel} {p : Bool} {timeout : Nat}
    (hready : Ready s ch c) (hi : c.initialized = true) (hr : c.rqAttached = true) (hs : c.readState = .idle)
    (h : exec (.arm ch p timeout) s = .next t) : c.rt.registered = false := by
  obtain ⟨hf, hco, hc⟩ := hready
  rw [exec, execArm, State.cooperative_ready hf hco hc] at h
  obtain ⟨u, hu, -⟩ := State.startOperation_next.1 h
  obtain ⟨f, q, hph0, -⟩ := State.finishMicro_next.1 hu
  refine Bool.eq_false_iff.2 fun ht => ?_
  rw [armPh0_badSlot (f := ⟨c, s.shared⟩) hi hr hs ht] at hph0
  cases hph0

/-! ### CANCEL (42_async_read.md R151) -/

/-- Settles O24: from Armed `ph2` finds a clock request to release and a slot to unregister; from Idle `ph0` answers. -/
theorem cancelStopsSupervision : Obligations.CancelStopsSupervision := by
  intro s ch c hready
  have ⟨hf, hco, hc⟩ := hready
  rw [exec, execCancel, State.cooperative_ready hf hco hc]
  refine ⟨fun hs hreg hheld => ?_, fun hs => ?_⟩
  · refine ⟨Config.freeDue s.shared.draws, s.shared.draws + 1, ?_⟩
    rw [cancelPh0_ok.2 (.inr ⟨hs, rfl, rfl⟩)]
    exact State.startOperation_three hco hready.ch_lt rfl (cancelPh2_ok.2 ⟨rfl, hheld, hreg, rfl⟩)
  · rw [cancelPh0_ok.2 (.inl ⟨hs, rfl, rfl⟩)]
    exact State.startOperation_ended hco ch false _

/-! ### DRAIN (42_async_read.md R152) -/

/-- `pop` past the end of the queue takes all of it (20_memory.md R65). -/
theorem ByteQueue.pop_eq (q : ByteQueue) (m : Nat) :
    q.pop m = (q.data.take m, { q with data := q.data.drop m }) := by
  rw [ByteQueue.pop, ← List.take_eq_take_min, ← List.drop_eq_drop_min]

/-- Settles O25: DRAIN is its `ph0`, which pops. -/
theorem drainReturnsTheOldestBytes : Obligations.DrainReturnsTheOldestBytes := by
  rintro s ch c max ⟨hf, hco, hc⟩
  rw [exec, execDrain, State.cooperative_ready hf hco hc]
  refine ⟨fun hs => ?_, fun hs => ?_⟩
  · rw [drainPh0_ok.2 ⟨rfl, .inr ⟨hs, rfl⟩⟩, State.finishMicro_ended hco, ByteQueue.pop_length, ByteQueue.pop_eq]
    rfl
  · rw [drainPh0_ok.2 ⟨rfl, .inl ⟨hs, rfl⟩⟩, State.finishMicro_ended hco]
    rfl

/-! ### TASKR (42_async_read.md R153) -/

theorem ByteQueue.isEmpty_iff {q : ByteQueue} : q.isEmpty = true ↔ q.data = [] := by
  rw [ByteQueue.isEmpty, decide_eq_true_iff, List.length_eq_zero_iff]

theorem Focus.report_eq (f : Focus) (ch : Nat) (kind : EventKind) :
    f.report ch kind =
      ⟨f.c, { f.g with events := f.g.events ++ if f.c.cbEn then [⟨ch, kind, f.c.cbCtx⟩] else [] }⟩ :=
  calc f.report ch kind
    _ = ⟨(f.report ch kind).c, (f.report ch kind).g⟩ := rfl
    _ = _ := by rw [Focus.report_c, Focus.report_g]

/-- TASKR `ph1` touches the event port only. -/
theorem taskrPh1_eq (ch : Nat) (f : Focus) :
    taskrPh1 ch f = .ok (⟨f.c, { f.g with
      events := f.g.events ++
        if f.c.cbEn then [⟨ch, if f.c.rq.data = [] then .readTimeout else .readData, f.c.cbCtx⟩] else [] }⟩, none) := by
  simp only [taskrPh1, Focus.report_eq, ByteQueue.isEmpty_iff]

/-- Settles O26: a slot that is due is registered, so `ph0` re-arms it and `ph1` reports. -/
theorem taskrRearmsAndReports : Obligations.TaskrRearmsAndReports := by
  intro s ch c hready hreg hdue
  have ⟨hf, hco, hc⟩ := hready
  rw [exec, execTaskr, State.cooperative_ready hf hco hc, Slot.ready_iff.2 ⟨hreg, hdue⟩,
    taskrPh0_ok.2 ⟨rfl, hreg, rfl⟩]
  exact State.startOperation_two hco hready.ch_lt (taskrPh1_eq ch _)

/-- TASKR has a step exactly when its slot is registered and due (30_encoding.md R118, NE4). -/
theorem exec_taskr_next_iff_ready {s : State} {ch : Nat} {c : Channel} (hready : Ready s ch c) :
    (∃ t, exec (.taskr ch false) s = .next t) ↔ c.rt.ready s.shared.now = true := by
  have ⟨hf, hco, hc⟩ := hready
  constructor
  · rintro ⟨t, h⟩
    rw [exec, execTaskr, State.cooperative_ready hf hco hc] at h
    exact (requires_next.1 h).1
  · intro h
    obtain ⟨hreg, hdue⟩ := Slot.ready_iff.1 h
    exact ⟨_, taskrRearmsAndReports s ch c hready hreg hdue⟩

/-! ### The read window (42_async_read.md R154) -/

/-- A task registered for `timeout` ticks ahead is due after `dt` ticks exactly when that many have passed. -/
theorem Slot.ready_after_elapsed {now timeout dt : Nat} :
    (⟨true, .ticks (now + timeout)⟩ : Slot).ready (now + dt) = true ↔ timeout ≤ dt := by
  rw [Slot.ready_iff, Due.reached, decide_eq_true_iff, Nat.add_le_add_iff_left]
  exact and_iff_right rfl

/-- Settles O27: ARM leaves the task due at `now + timeout`, and TICK moves nothing but `now`. -/
theorem readTimeoutFiresWhenElapsed : Obligations.ReadTimeoutFiresWhenElapsed := by
  intro s t u ch c timeout dt hready hi hr hs harm htick
  have ht := rt_unregistered_of_exec_arm hready hi hr hs harm
  rw [armStartsSupervision s ch c timeout hready hi hr hs ht] at harm
  cases harm
  rw [exec_tick (s := s.put ch _) hready.1] at htick
  cases htick
  rw [exec_taskr_next_iff_ready ((hready.put _).setShared _)]
  exact Slot.ready_after_elapsed

/-! ### CANCEL, then ARM (70_reset_and_hazards.md R256) -/

/-- A channel whose read path holds the clock has its request counted (10_state.md R30, I-c). -/
theorem Sound.hfCount_ne_zero {s : State} {ch : Nat} {c : Channel} (hs : Sound s) (hc : s.chans[ch]? = some c)
    (hheld : readHeld (s.pendingOn ch) c = true) : s.shared.hfCount ≠ 0 := by
  have hshare : hfShare (s.pendingOn ch) c ∈ s.chans.mapIdx fun ch c => hfShare (s.pendingOn ch) c :=
    List.mem_of_getElem? (i := ch) (by rw [List.getElem?_mapIdx, hc, Option.map_some])
  have hpos : 0 < hfShare (s.pendingOn ch) c := by
    rw [hfShare, hheld, if_pos rfl]
    omega
  rw [hs.hfExact]
  exact Nat.ne_of_gt (List.sum_pos_iff_exists_pos_nat.2 ⟨_, hshare, hpos⟩)

/-- What soundness says of a channel whose read is Armed: all that CANCEL and a later ARM need. -/
theorem Sound.armed {s : State} {ch : Nat} {c : Channel} (hs : Sound s) (hc : s.chans[ch]? = some c)
    (harmed : c.readState = .armed) :
    c.initialized = true ∧ c.rqAttached = true ∧ c.rt.registered = true ∧ c.ier.rxneie = true ∧
      s.shared.hfCount ≠ 0 := by
  have hchan := hs.channels ch c hc
  have hheld : readHeld (s.pendingOn ch) c = true := by rw [readHeld, harmed]; rfl
  obtain ⟨hi, hr⟩ := hchan.readNeeds (.inl hheld)
  refine ⟨hi, hr, ?_, ?_, hs.hfCount_ne_zero hc hheld⟩
  · rw [hchan.rtHeld, hheld, Bool.true_or]
  · rw [hchan.rxneieHeld, harmed]; rfl

/-- Settles O28: CANCEL leaves an Idle channel with its slot unregistered, where ARM starts; the enable bit and the clock
request that CANCEL gives back are the ones ARM takes. -/
theorem cancelThenArmSucceeds : Obligations.CancelThenArmSucceeds := by
  intro s ch c timeout hsound hready harmed
  obtain ⟨hi, hr, hreg, hrxneie, hheld⟩ := hsound.armed hready.2.2 harmed
  obtain ⟨d, n, hcancel⟩ := (cancelStopsSupervision s ch c hready).1 harmed hreg hheld
  refine ⟨_, _, _, hcancel, armStartsSupervision _ ch _ timeout (hready.put _) hi hr rfl rfl,
    State.put_same _ ch _ (hready.put _).ch_lt, rfl, rfl, rfl, ?_, rfl, ?_, rfl⟩
  · show { c.ier with rxneie := true } = c.ier
    rw [← hrxneie]
  · exact Nat.sub_one_add_one hheld

end Sys2Proof.Machine

/-!
O29, O30, O31: one invocation of the multiplexer (43_interrupt_mux.md R170 to R174).

The three sub-steps are read against the outcome table in two halves. Sub-step 1 feeds sub-step 2 through TCIE and TC,
so the guard of sub-step 2 is the table's `transmitWakes` of the state at entry; neither touches what sub-step 3 tests.
-/

namespace Sys2Proof.Machine

/-! ### Taking an IRQ step -/

/-- Putting back a channel and the shared state as they are. -/
theorem State.put_self {s : State} {ch : Nat} {c : Channel} (hc : s.chans[ch]? = some c) :
    s.put ch ⟨c, s.shared⟩ = s := by
  obtain ⟨hlt, rfl⟩ := List.getElem?_eq_some_iff.1 hc
  rw [State.put, List.set_getElem_self]

/-- In a machine that has not stopped IRQ is the multiplexer, whatever operation is in flight. -/
theorem exec_irq {s : State} {ch : Nat} {c : Channel} (h : Live s ch c) :
    exec (.irq ch) s = s.finishStep ch (multiplexer ⟨c, s.shared⟩) :=
  State.independent_live h.1 h.2

/-- Waking a registered task moves its due-time only (60_exceptions.md R228). -/
theorem Slot.runNow_of_registered {sl : Slot} (h : sl.registered = true) (now : Nat) :
    sl.runNow now = .ok { sl with due := .ticks now } := by
  rw [Slot.runNow, if_pos h]

/-! ### The transmit side: sub-steps 1 and 2 -/

theorem irqTransmitEmpty_g (f : Focus) : (irqTransmitEmpty f).g = f.g := by
  obtain ⟨-, e⟩ | ⟨-, b, rest, -, e⟩ | ⟨-, -, e⟩ := irqTransmitEmpty_cases f <;> rw [e]

theorem irqTransmitEmpty_wt (f : Focus) : (irqTransmitEmpty f).c.wt = f.c.wt := by
  obtain ⟨-, e⟩ | ⟨-, b, rest, -, e⟩ | ⟨-, -, e⟩ := irqTransmitEmpty_cases f <;> rw [e]
  rfl

/-- The guard of sub-step 2, on the state sub-step 1 left, is the table's condition on the state at entry. -/
theorem irqTransmitEmpty_tcRequest (f : Focus) : (irqTransmitEmpty f).c.tcRequest = transmitWakes f.c := by
  obtain ⟨hq, e⟩ | ⟨hq, b, rest, hd, e⟩ | ⟨hq, hd, e⟩ := irqTransmitEmpty_cases f <;>
    rw [Channel.txeRequest] at hq
  · simp [e, transmitWakes, Channel.tcRequest, hq]
  · simp [e, transmitWakes, Channel.tcRequest, hq, hd]
  · simp [e, transmitWakes, Channel.tcRequest, hq, hd]

/-- The table's transmit columns are what sub-step 1 leaves, and the wake-up where they say so. -/
theorem transmitOutcome_eq (now : Nat) (f : Focus) :
    transmitOutcome now f.c =
      if transmitWakes f.c then
        { (irqTransmitEmpty f).c.setTcie false with wt := { f.c.wt with due := .ticks now } }
      else (irqTransmitEmpty f).c := by
  obtain ⟨hq, e⟩ | ⟨hq, b, rest, hd, e⟩ | ⟨hq, hd, e⟩ := irqTransmitEmpty_cases f <;>
    rw [Channel.txeRequest] at hq
  · simp [e, transmitOutcome, transmitWakes, hq, Channel.setTcie]
  · simp [e, transmitOutcome, transmitWakes, hq, hd, Channel.writeTdr]
  · simp [e, transmitOutcome, transmitWakes, hq, hd, Channel.setTcie]

/-- Sub-steps 1 and 2 give the table's transmit columns when the slot they wake is registered. -/
theorem irqTransmit_outcome {f : Focus} (h : transmitWakes f.c = true → f.c.wt.registered = true) :
    irqTransmissionComplete (irqTransmitEmpty f) = .ok ⟨transmitOutcome f.g.now f.c, f.g⟩ := by
  rw [irqTransmissionComplete, irqTransmitEmpty_tcRequest, irqTransmitEmpty_wt, irqTransmitEmpty_g, transmitOutcome_eq]
  cases hw : transmitWakes f.c with
  | true => rw [Slot.runNow_of_registered (h hw)]; rfl
  | false => rw [← irqTransmitEmpty_g f]; rfl

theorem irqTransmit_badSlot {f : Focus} (hw : transmitWakes f.c = true) (hreg : f.c.wt.registered = false) :
    irqTransmissionComplete (irqTransmitEmpty f) = .error .schedBadSlot :=
  irqTransmissionComplete_error.2
    ⟨(irqTransmitEmpty_tcRequest f).trans hw, (congrArg Slot.registered (irqTransmitEmpty_wt f)).trans hreg, rfl⟩

/-- The transmit side leaves alone all that sub-step 3 tests. -/
theorem transmitOutcome_receiveSide (now : Nat) (c : Channel) :
    (transmitOutcome now c).rxneRequest = c.rxneRequest ∧ (transmitOutcome now c).rt = c.rt := by
  unfold transmitOutcome
  split
  · split
    · exact ⟨rfl, rfl⟩
    · split <;> exact ⟨rfl, rfl⟩
  · split <;> exact ⟨rfl, rfl⟩

/-! ### The receive side: sub-step 3 -/

/-- Sub-step 3 gives the table's receive column when the slot it wakes is registered. -/
theorem irqReceiveNotEmpty_outcome {f : Focus} (h : f.c.rxneRequest = true → f.c.rt.registered = true) :
    irqReceiveNotEmpty f = .ok ⟨receiveOutcome f.g.now f.c, f.g⟩ := by
  rw [irqReceiveNotEmpty, receiveOutcome, ← Channel.rxneRequest]
  cases hq : f.c.rxneRequest with
  | false => rfl
  | true =>
    simp only [Channel.readRdr, Slot.runNow_of_registered (h hq), if_true]
    obtain ⟨hroom, e⟩ | ⟨hfull, e⟩ := f.c.rq.pushOne_cases f.c.rdr
    · rw [e, if_pos hroom]
    · rw [e, if_neg (Nat.not_lt.2 hfull)]

/-! ### The whole invocation -/

/-- The three sub-steps give the table's outcome when the slots they wake are registered. -/
theorem multiplexer_outcome {f : Focus} (hw : transmitWakes f.c = true → f.c.wt.registered = true)
    (hr : f.c.rxneRequest = true → f.c.rt.registered = true) :
    multiplexer f = .ok ⟨receiveOutcome f.g.now (transmitOutcome f.g.now f.c), f.g⟩ := by
  obtain ⟨hrequest, hslot⟩ := transmitOutcome_receiveSide f.g.now f.c
  refine multiplexer_ok.2 ⟨_, irqTransmit_outcome hw, irqReceiveNotEmpty_outcome ?_⟩
  rwa [hrequest, hslot]

/-- Waking an unregistered slot faults; when only sub-step 3 would, the transmit side has succeeded before it. -/
theorem multiplexer_badSlot {f : Focus}
    (h : (transmitWakes f.c = true ∧ f.c.wt.registered = false) ∨
      (f.c.rxneRequest = true ∧ f.c.rt.registered = false)) : multiplexer f = .error .schedBadSlot := by
  by_cases hw : transmitWakes f.c = true ∧ f.c.wt.registered = false
  · obtain ⟨hwake, hunreg⟩ := hw
    exact multiplexer_error.2 (.inl (irqTransmit_badSlot hwake hunreg))
  · obtain ⟨hq, hreg⟩ := h.resolve_left hw
    have htransmit : transmitWakes f.c = true → f.c.wt.registered = true := fun hwake =>
      eq_true_of_ne_false fun hunreg => hw ⟨hwake, hunreg⟩
    obtain ⟨hrequest, hslot⟩ := transmitOutcome_receiveSide f.g.now f.c
    exact multiplexer_error.2 (.inr ⟨_, irqTransmit_outcome htransmit, irqReceiveNotEmpty_error.2
      ⟨hrequest.trans hq, (congrArg Slot.registered hslot).trans hreg, rfl⟩⟩)

/-- Settles O29: sub-steps 1 and 2 give the transmit columns and sub-step 3 the receive column. -/
theorem irqFollowsOutcomeTable : Obligations.IrqFollowsOutcomeTable := by
  intro s ch c hlive hw hr
  rw [exec_irq hlive]
  refine State.finishStep_next.2 ⟨_, multiplexer_outcome hw fun hq => ?_, rfl⟩
  obtain ⟨henabled, hpending⟩ := Bool.and_eq_true_iff.1 hq
  exact hr henabled hpending

/-- Settles O30: the fault is the multiplexer's, and a fault commits nothing of its sub-steps. -/
theorem irqFaultsOnUnregisteredSlot : Obligations.IrqFaultsOnUnregisteredSlot := by
  intro s ch c hlive h
  rw [exec_irq hlive]
  refine State.finishStep_fault.2 ⟨_, multiplexer_badSlot (h.imp_right fun ⟨henabled, hpending, hreg⟩ => ?_), rfl⟩
  exact ⟨Bool.and_eq_true_iff.2 ⟨henabled, hpending⟩, hreg⟩

/-- Settles O31: the multiplexer answers the channel it was given. -/
theorem spuriousIrqChangesNothing : Obligations.SpuriousIrqChangesNothing := by
  intro s ch c hlive hlow
  rw [exec_irq hlive, multiplexer_spurious (f := ⟨c, s.shared⟩) hlow]
  exact congrArg Host.Outcome.next (State.put_self hlive.2)

end Sys2Proof.Machine

/-!
O34 to O40: the environment's steps and COSTEP (44_environment.md R181 to R185).

On a live channel each step of the transceiver is its one condition in front of one update of the channel. COSTEP
commits what the micro-step in flight answers: `exec_costep` says so once, and what is left for an operation is the
answer.
-/

namespace Sys2Proof.Machine

/-! ### The transceiver (44_environment.md R181 to R183) -/

/-- On a live channel HWLOAD is its condition NE5 and the move to the shift stage, whatever operation is in flight. -/
theorem exec_hwload {s : State} {ch : Nat} {c : Channel} (h : Live s ch c) :
    exec (.hwload ch) s =
      requires (c.initialized && !c.isr.txe && !c.tsrBusy) .ne5 (.next (s.put ch ⟨c.loadShift, s.shared⟩)) :=
  State.independent_live h.1 h.2

/-- HWDONE is its condition NE6 and the end of the shift. -/
theorem exec_hwdone {s : State} {ch : Nat} {c : Channel} (h : Live s ch c) :
    exec (.hwdone ch) s =
      requires (c.initialized && c.tsrBusy) .ne6 (.next (s.put ch ⟨c.finishShift, s.shared⟩)) :=
  State.independent_live h.1 h.2

/-- HWRX is its condition NE7 and the arrival of the byte. -/
theorem exec_hwrx {s : State} {ch : Nat} {c : Channel} (h : Live s ch c) (b : Byte) :
    exec (.hwrx ch b) s = requires c.initialized .ne7 (.next (s.put ch ⟨c.receive b, s.shared⟩)) :=
  State.independent_live h.1 h.2

/-- TC rises only if no byte waits: the model's disjunction is the rule's conditional (44_environment.md R182). -/
theorem Channel.finishShift_eq (c : Channel) :
    c.finishShift = { c with
      linelog := c.linelog ++ [c.tsr]
      tsrBusy := false
      isr := { c.isr with tc := if c.isr.txe then true else c.isr.tc } } := by
  have htc : (c.isr.tc || c.isr.txe) = if c.isr.txe then true else c.isr.tc := by
    cases c.isr.txe with
    | true => exact Bool.or_true _
    | false => exact Bool.or_false _
  rw [Channel.finishShift, htc]

/-- Settles O34: the condition is NE5's. -/
theorem hwloadMovesTheWaitingByte : Obligations.HwloadMovesTheWaitingByte := by
  intro s ch c hlive
  rw [exec_hwload hlive]
  refine ⟨fun hi htxe hbusy => requires_next.2 ⟨?_, rfl⟩, fun hn => requires_refused.2 (.inl ⟨?_, rfl⟩)⟩
  · rw [hi, htxe, hbusy]; rfl
  · simpa [and_assoc] using hn

/-- Settles O35: the condition is NE6's. -/
theorem hwdoneSendsTheByte : Obligations.HwdoneSendsTheByte := by
  intro s ch c hlive
  rw [exec_hwdone hlive, Channel.finishShift_eq]
  refine ⟨fun hi hbusy => requires_next.2 ⟨?_, rfl⟩, fun hn => requires_refused.2 (.inl ⟨?_, rfl⟩)⟩
  · rw [hi, hbusy]; rfl
  · simpa using hn

/-- Settles O36: a free RDR holds the byte; an overrun puts back the channel as it was. -/
theorem hwrxHoldsOrLosesTheByte : Obligations.HwrxHoldsOrLosesTheByte := by
  intro s ch c b hlive
  rw [exec_hwrx hlive]
  refine ⟨fun hi hfree => ?_, fun hi hfull => ?_, fun hn => requires_refused.2 (.inl ⟨hn, rfl⟩)⟩
  · exact requires_next.2 ⟨hi, by rw [Channel.receive_free c b hfree]⟩
  · exact requires_next.2 ⟨hi, by rw [Channel.receive_overrun c b hfull, State.put_self hlive.2]⟩

/-! ### The clock (44_environment.md R184) -/

/-- Settles O37: TICK asks only that the machine has not stopped. -/
theorem tickAdvancesTime : Obligations.TickAdvancesTime := fun _ dt hf => exec_tick hf dt

/-! ### COSTEP (44_environment.md R185) -/

/-- COSTEP commits what the micro-step in flight answers. -/
theorem exec_costep {s : State} {ch : Nat} {c : Channel} {q : Pending} (h : InFlight s ch c q) {f : Focus}
    {p : Option Pending} (hm : runMicro q ch ⟨c, s.shared⟩ = .ok (f, p)) :
    exec .costep s = .next { s.put ch f with coop := p.map fun q => ⟨ch, q⟩ } := by
  obtain ⟨hf, hco, hc⟩ := h
  exact State.unfaulted_next.2 ⟨hf, State.runPending_next.2 ⟨ch, q, c, f, p, hco, hc, hm, rfl⟩⟩

/-- TASKW `ph1` that completes: slot unregistered, power gate released, write completion reported (41_async_write.md
R141). -/
theorem taskwPh1_eq {ch : Nat} {f : Focus} (hreg : f.c.wt.registered = true)
    (hheld : (if f.c.lp then f.g.dsCount else f.g.hfCount) ≠ 0) :
    taskwPh1 ch f = .ok (⟨{ f.c with wt := ⟨false, Config.freeDue f.g.draws⟩ },
      { f.g with
        hfCount := if f.c.lp then f.g.hfCount else f.g.hfCount - 1
        dsCount := if f.c.lp then f.g.dsCount - 1 else f.g.dsCount
        pglog := f.g.pglog ++ [if f.c.lp then .alwDs else .disHf]
        events := f.g.events ++ if f.c.cbEn then [⟨ch, .writeDone, f.c.cbCtx⟩] else []
        draws := f.g.draws + 1 }⟩, none) := by
  obtain ⟨⟨c', g'⟩, h⟩ := taskwPh1_completes (ch := ch) hreg hheld
  obtain ⟨-, -, rfl, g, hrelease, rfl⟩ := taskwPh1_ok h
  obtain ⟨-, rfl⟩ := Shared.releaseWrite_ok.1 hrelease
  exact h

/-- Settles O38: `ph1` acquires from Idle and only re-arms while Draining; `ph2` sets TXEIE and answers. -/
theorem costepRunsEnqueue : Obligations.CostepRunsEnqueue := by
  intro s ch k n c
  refine ⟨fun h hidle hreg => ?_, fun h hdraining hreg => ?_, fun h => exec_costep h rfl⟩
  · rw [← Shared.acquireWrite_eq]
    exact exec_costep h (enqueuePh1_ok.2 ⟨rfl, .inl ⟨hidle, hreg, rfl⟩⟩)
  · exact exec_costep h (enqueuePh1_ok.2 ⟨rfl, .inr ⟨hdraining, hreg, rfl⟩⟩)

/-- Settles O39: only CANCEL's `ph2` can stop, and it finds a clock request to release and a slot to unregister. -/
theorem costepRunsArmAndCancel : Obligations.CostepRunsArmAndCancel := by
  intro s ch c
  refine ⟨fun h => exec_costep h rfl, fun h => exec_costep h rfl, fun h => exec_costep h rfl, fun h hreg hheld => ?_⟩
  exact ⟨_, _, exec_costep h (cancelPh2_ok.2 ⟨rfl, hheld, hreg, rfl⟩)⟩

/-- Settles O40: each `ph1` ends its task. -/
theorem costepRunsTasks : Obligations.CostepRunsTasks := by
  intro s ch c
  exact ⟨fun h hreg hheld => ⟨_, _, exec_costep h (taskwPh1_eq hreg hheld)⟩,
    fun h => exec_costep h (taskrPh1_eq ch ⟨c, s.shared⟩)⟩

end Sys2Proof.Machine

/-!
O32, O33: what interrupt context never touches, and IRQ steps of different channels (60_exceptions.md R214, R216, R220).

The multiplexer answers the outcome table's channel with the shared state it was given, or it faults. So its frame is
read off the table's two sides, and invocations on two channels meet in nothing that either of them changes.
-/

namespace Sys2Proof.Machine

/-! ### What an invocation answers -/

/-- An invocation wakes a slot that is not registered (60_exceptions.md R228). -/
def interruptSlotBad (c : Channel) : Prop :=
  (transmitWakes c = true ∧ c.wt.registered = false) ∨ (c.rxneRequest = true ∧ c.rt.registered = false)

/-- The outcome table read as a whole (43_interrupt_mux.md R174). -/
def irqOutcome (now : Nat) (c : Channel) : Channel := receiveOutcome now (transmitOutcome now c)

/-- The multiplexer faults on a slot it cannot wake, and gives the table's outcome otherwise. -/
theorem multiplexer_cases (f : Focus) :
    (interruptSlotBad f.c ∧ multiplexer f = .error .schedBadSlot) ∨
      (¬interruptSlotBad f.c ∧ multiplexer f = .ok ⟨irqOutcome f.g.now f.c, f.g⟩) := by
  by_cases hbad : interruptSlotBad f.c
  · exact .inl ⟨hbad, multiplexer_badSlot hbad⟩
  · have hwt (hw : transmitWakes f.c = true) : f.c.wt.registered = true :=
      eq_true_of_ne_false fun hreg => hbad (.inl ⟨hw, hreg⟩)
    have hrt (hq : f.c.rxneRequest = true) : f.c.rt.registered = true :=
      eq_true_of_ne_false fun hreg => hbad (.inr ⟨hq, hreg⟩)
    exact .inr ⟨hbad, multiplexer_outcome hwt hrt⟩

/-- The next state of an IRQ step, and when there is one. -/
theorem exec_irq_next {s t : State} {ch : Nat} : exec (.irq ch) s = .next t ↔
    ∃ c, Live s ch c ∧ ¬interruptSlotBad c ∧ t = s.put ch ⟨irqOutcome s.shared.now c, s.shared⟩ := by
  rw [exec, execIrq, State.independent_next]
  constructor
  · rintro ⟨hf, c, hc, h⟩
    obtain ⟨-, e⟩ | ⟨hgood, e⟩ := multiplexer_cases ⟨c, s.shared⟩ <;> rw [e] at h <;> cases h
    exact ⟨c, ⟨hf, hc⟩, hgood, rfl⟩
  · rintro ⟨c, ⟨hf, hc⟩, hgood, rfl⟩
    obtain ⟨hbad, -⟩ | ⟨-, e⟩ := multiplexer_cases ⟨c, s.shared⟩
    · exact absurd hbad hgood
    · exact ⟨hf, c, hc, State.finishStep_next.2 ⟨_, e, rfl⟩⟩

/-! ### What it leaves unchanged (60_exceptions.md R220) -/

/-- All that the transmit side may change. -/
theorem transmitOutcome_frame (now : Nat) (c : Channel) : ∃ ier isr tdr wq due txlog,
    transmitOutcome now c = { c with
      ier := ier, isr := isr, tdr := tdr, wq := wq, wt := { c.wt with due := due }, txlog := txlog } := by
  unfold transmitOutcome
  split
  · split
    · exact ⟨_, _, _, _, _, _, rfl⟩
    · split <;> exact ⟨_, _, _, _, _, _, rfl⟩
  · split <;> exact ⟨_, _, _, _, _, _, rfl⟩

/-- All that the receive side may change. -/
theorem receiveOutcome_frame (now : Nat) (c : Channel) : ∃ isr rq due,
    receiveOutcome now c = { c with isr := isr, rq := rq, rt := { c.rt with due := due } } := by
  unfold receiveOutcome
  split
  · split <;> exact ⟨_, _, _, rfl⟩
  · exact ⟨_, _, _, rfl⟩

/-- All that an invocation may change. -/
theorem irqOutcome_frame (now : Nat) (c : Channel) : ∃ ier isr tdr wq rq wdue rdue txlog,
    irqOutcome now c = { c with
      ier := ier, isr := isr, tdr := tdr, wq := wq, rq := rq, txlog := txlog
      wt := { c.wt with due := wdue }, rt := { c.rt with due := rdue } } := by
  obtain ⟨ier, _, tdr, wq, wdue, txlog, htransmit⟩ := transmitOutcome_frame now c
  obtain ⟨isr, rq, rdue, hreceive⟩ := receiveOutcome_frame now (transmitOutcome now c)
  exact ⟨ier, isr, tdr, wq, rq, wdue, rdue, txlog, by rw [irqOutcome, hreceive, htransmit]⟩

/-- Settles O32: the channel committed is the one at entry, but for what an invocation may change. -/
theorem multiplexerFrame : Obligations.MultiplexerFrame := by
  intro s t ch c hc h
  obtain ⟨d, ⟨-, hd⟩, -, rfl⟩ := exec_irq_next.1 h
  obtain rfl : c = d := Option.some.inj (hc.symm.trans hd)
  obtain ⟨ier, isr, tdr, wq, rq, wdue, rdue, txlog, houtcome⟩ := irqOutcome_frame s.shared.now c
  rw [houtcome]
  exact ⟨rfl, rfl, rfl, rfl, fun ch' hne => State.put_other s ch ch' _ hne.symm, _,
    State.put_same s ch _ (List.getElem?_eq_some_iff.1 hc).1,
    rfl, rfl, rfl, rfl, rfl, rfl, rfl, rfl, rfl, rfl, rfl, rfl, rfl, rfl, rfl⟩

/-! ### Two channels (60_exceptions.md R214) -/

theorem State.put_comm (s : State) {a b : Nat} (hab : a ≠ b) (c d : Channel) (g : Shared) :
    (s.put a ⟨c, g⟩).put b ⟨d, g⟩ = (s.put b ⟨d, g⟩).put a ⟨c, g⟩ := by
  simp only [State.put, List.set_comm _ _ hab]

/-- Settles O33: each invocation finds its own channel and the shared state as they are without the other. -/
theorem interruptsOfChannelsCommute : Obligations.InterruptsOfChannelsCommute := by
  intro s t u a b hab hs ht
  obtain ⟨c, ⟨hf, hc⟩, hgood, rfl⟩ := exec_irq_next.1 hs
  obtain ⟨d, ⟨-, hd⟩, hgood', rfl⟩ := exec_irq_next.1 ht
  rw [State.put_other s a b _ hab] at hd
  refine ⟨_, exec_irq_next.2 ⟨d, ⟨hf, hd⟩, hgood', rfl⟩, exec_irq_next.2 ⟨c, ⟨hf, ?_⟩, hgood, ?_⟩⟩
  · rwa [State.put_other s b a _ hab.symm]
  · exact State.put_comm s hab _ _ s.shared

end Sys2Proof.Machine

/-!
O16, O17: calls on a channel that is not initialised or lacks the queue they need (60_exceptions.md R201, R202, R215).

A rejected call answers in its first micro-step, with P = 0 or 1, and changes nothing else. That a call past its checks
does not answer NOT_ATTACHED is kept along the micro-steps that follow.
-/

namespace Sys2Proof.Machine

/-! ### The checks of ENQUEUE and ARM, in order (60_exceptions.md R215) -/

theorem enqueuePh0_notInitialized {f : Focus} (hi : f.c.initialized = false) (ch : Nat) (bs : List Byte) :
    enqueuePh0 ch bs f = f.answer .enqueue ch .notInitialized 0 [] := by
  simp only [enqueuePh0, hi, Bool.not_false, if_true]

theorem enqueuePh0_notAttached {f : Focus} (hi : f.c.initialized = true) (hw : f.c.wqAttached = false) (ch : Nat)
    (bs : List Byte) : enqueuePh0 ch bs f = f.answer .enqueue ch .notAttached 0 [] := by
  simp only [enqueuePh0, hi, hw, Bool.not_true, Bool.not_false, Bool.false_eq_true, if_false, if_true]

theorem armPh0_notInitialized {f : Focus} (hi : f.c.initialized = false) (ch timeout : Nat) :
    armPh0 ch timeout f = f.answer .arm ch .notInitialized 0 [] := by
  simp only [armPh0, hi, Bool.not_false, if_true]

theorem armPh0_notAttached {f : Focus} (hi : f.c.initialized = true) (hr : f.c.rqAttached = false)
    (ch timeout : Nat) : armPh0 ch timeout f = f.answer .arm ch .notAttached 0 [] := by
  simp only [armPh0, hi, hr, Bool.not_true, Bool.not_false, Bool.false_eq_true, if_false, if_true]

/-- Settles O16: each of the six calls ends in the answer of its `ph0`. -/
theorem uninitialisedCallsAreRejected : Obligations.UninitialisedCallsAreRejected := by
  rintro s ch c i ⟨hf, hco, hc⟩ hi hs
  constructor
  · rintro (⟨w, r, rfl⟩ | ⟨en, ctx, rfl⟩ | ⟨p, bs, rfl⟩ | ⟨p, timeout, rfl⟩)
    · rw [exec, execAttach, State.cooperative_ready hf hco hc, attachPh0_notInitialized (f := ⟨c, s.shared⟩) hi]
      exact State.finishMicro_answer hco ch _ _ _ _ _
    · rw [exec, execSetcb, State.cooperative_ready hf hco hc, setcbPh0_notInitialized (f := ⟨c, s.shared⟩) hi]
      exact State.finishMicro_answer hco ch _ _ _ _ _
    · rw [exec, execEnqueue, State.cooperative_ready hf hco hc, enqueuePh0_notInitialized (f := ⟨c, s.shared⟩) hi]
      exact State.startOperation_ended hco ch p _
    · rw [exec, execArm, State.cooperative_ready hf hco hc, armPh0_notInitialized (f := ⟨c, s.shared⟩) hi]
      exact State.startOperation_ended hco ch p _
  · rintro (⟨p, rfl⟩ | ⟨max, rfl⟩)
    · rw [exec, execCancel, State.cooperative_ready hf hco hc, cancelPh0_ok.2 (.inl ⟨hs, rfl, rfl⟩)]
      exact State.startOperation_ended hco ch p _
    · rw [exec, execDrain, State.cooperative_ready hf hco hc, drainPh0_ok.2 ⟨rfl, .inl ⟨hs, rfl⟩⟩]
      exact State.finishMicro_ended hco ch _

/-! ### Calls that do not answer NOT_ATTACHED -/

/-- From the first to the second no response is appended that says NOT_ATTACHED. -/
def Shared.NeverUnattached (g g' : Shared) : Prop :=
  ∃ rs, g'.resp = g.resp ++ rs ∧ ∀ r ∈ rs, r.st ≠ .notAttached

theorem Shared.NeverUnattached.of_resp_eq {g g' : Shared} (h : g'.resp = g.resp) : g.NeverUnattached g' :=
  ⟨[], by rw [h, List.append_nil], nofun⟩

theorem Shared.NeverUnattached.trans {g g' g'' : Shared} (h : g.NeverUnattached g') (h' : g'.NeverUnattached g'') :
    g.NeverUnattached g'' := by
  obtain ⟨rs, e, hrs⟩ := h
  obtain ⟨rs', e', hrs'⟩ := h'
  exact ⟨rs ++ rs', by rw [e', e, List.append_assoc], fun r hr => (List.mem_append.1 hr).elim (hrs r) (hrs' r)⟩

/-- An operation that ends with another status. -/
theorem Focus.answer_neverUnattached {f f' : Focus} {op : Op} {ch : Nat} {st : Status} {val : Nat}
    {payload : List Byte} {p : Option Pending} (h : f.answer op ch st val payload = .ok (f', p))
    (hst : st ≠ .notAttached) : f.g.NeverUnattached f'.g := by
  obtain ⟨rfl, -⟩ := Focus.answer_ok.1 h
  exact ⟨[_], rfl, fun r hr => List.mem_singleton.1 hr ▸ hst⟩

/-- ENQUEUE past its checks answers one of these (41_async_write.md R140). -/
theorem ok_or_queueFull_ne_notAttached {b : Prop} [Decidable b] :
    (if b then Status.ok else .queueFull) ≠ .notAttached := by
  split <;> nofun

/-- ENQUEUE `ph0` of a channel with a write queue. -/
theorem enqueuePh0_neverUnattached {ch : Nat} {bs : List Byte} {f f' : Focus} {p : Option Pending}
    (hi : f.c.initialized = true) (hw : f.c.wqAttached = true) (h : enqueuePh0 ch bs f = .ok (f', p)) :
    f.g.NeverUnattached f'.g := by
  by_cases hk : (f.c.wq.push bs).1 = 0
  · rw [enqueuePh0_accepts_none hi hw hk] at h
    exact Focus.answer_neverUnattached h ok_or_queueFull_ne_notAttached
  · rw [enqueuePh0_push hi hw hk] at h
    cases h
    exact .of_resp_eq rfl

/-- ARM `ph0` of a channel with a read queue. -/
theorem armPh0_neverUnattached {ch timeout : Nat} {f f' : Focus} {p : Option Pending} (hi : f.c.initialized = true)
    (hr : f.c.rqAttached = true) (h : armPh0 ch timeout f = .ok (f', p)) : f.g.NeverUnattached f'.g := by
  cases hs : f.c.readState with
  | armed =>
    rw [armPh0_alreadyActive hi hr hs] at h
    exact Focus.answer_neverUnattached h nofun
  | idle =>
    cases ht : f.c.rt.registered with
    | true => rw [armPh0_badSlot hi hr hs ht] at h; cases h
    | false =>
      rw [armPh0_register hi hr hs ht] at h
      cases h
      exact .of_resp_eq rfl

/-- The micro-steps after `ph0` are past the checks. -/
theorem runMicro_neverUnattached {q : Pending} {ch : Nat} {f f' : Focus} {p : Option Pending}
    (h : runMicro q ch f = .ok (f', p)) : f.g.NeverUnattached f'.g := by
  cases q with
  | enqueuePh1 k n =>
    obtain ⟨-, ⟨-, -, rfl⟩ | ⟨-, -, rfl⟩⟩ := enqueuePh1_ok.1 h
    · exact .of_resp_eq (by rw [Shared.acquireWrite_eq])
    · exact .of_resp_eq rfl
  | enqueuePh2 k n =>
    exact Focus.answer_neverUnattached (f := ⟨f.c.setTxeie true, f.g⟩) h ok_or_queueFull_ne_notAttached
  | armPh1 | cancelPh1 => cases h; exact .of_resp_eq rfl
  | armPh2 => exact Focus.answer_neverUnattached (f := ⟨{ f.c with readState := .armed }, f.g.enableHf⟩) h nofun
  | cancelPh2 =>
    obtain ⟨-, -, -, rfl⟩ := cancelPh2_ok.1 h
    exact ⟨[_], rfl, fun r hr => List.mem_singleton.1 hr ▸ nofun⟩
  | taskwPh1 =>
    obtain ⟨-, -, -, g, hrelease, e⟩ := taskwPh1_ok h
    obtain ⟨-, rfl⟩ := Shared.releaseWrite_ok.1 hrelease
    exact .of_resp_eq (by rw [e])
  | taskrPh1 =>
    rw [runMicro, taskrPh1_eq] at h
    cases h
    exact .of_resp_eq rfl

/-- A call whose `ph0` does not answer NOT_ATTACHED does not do so later. -/
theorem exec_neverUnattached {s t : State} {i : Instr} (h : exec i s = .next t)
    (hfirst : ∀ u, exec i.preemptible s = .next u → s.shared.NeverUnattached u.shared) :
    ∀ r ∈ t.shared.resp.drop s.shared.resp.length, r.st ≠ .notAttached := by
  have hmicro (u v : State) (hr : u.runPending = .next v) (hu : s.shared.NeverUnattached u.shared) :
      s.shared.NeverUnattached v.shared := by
    obtain ⟨ch, q, c, f, p, -, -, hm, rfl⟩ := State.runPending_next.1 hr
    exact hu.trans (runMicro_neverUnattached hm)
  obtain ⟨rs, e, hrs⟩ := exec_keeps (P := fun u => s.shared.NeverUnattached u.shared) h (fun u hu _ => hfirst u hu)
    hmicro (.of_resp_eq rfl)
  rwa [e, List.drop_left]

/-- Settles O17: without the queue of its direction a call ends in its `ph0`; with it no micro-step answers so. -/
theorem unattachedCallsAreRejected : Obligations.UnattachedCallsAreRejected := by
  rintro s ch c p ⟨hf, hco, hc⟩ hi
  refine ⟨fun bs => ⟨fun hw => ?_, fun hw t h => exec_neverUnattached h fun u hu => ?_⟩,
    fun timeout => ⟨fun hr => ?_, fun hr t h => exec_neverUnattached h fun u hu => ?_⟩⟩
  · rw [exec, execEnqueue, State.cooperative_ready hf hco hc, enqueuePh0_notAttached (f := ⟨c, s.shared⟩) hi hw]
    exact State.startOperation_ended hco ch p _
  · rw [Instr.preemptible, exec, execEnqueue, State.cooperative_ready hf hco hc, State.startOperation_preempt] at hu
    obtain ⟨f, q, hm, rfl⟩ := State.finishMicro_next.1 hu
    exact enqueuePh0_neverUnattached hi hw hm
  · rw [exec, execArm, State.cooperative_ready hf hco hc, armPh0_notAttached (f := ⟨c, s.shared⟩) hi hr]
    exact State.startOperation_ended hco ch p _
  · rw [Instr.preemptible, exec, execArm, State.cooperative_ready hf hco hc, State.startOperation_preempt] at hu
    obtain ⟨f, q, hm, rfl⟩ := State.finishMicro_next.1 hu
    exact armPh0_neverUnattached hi hr hm

end Sys2Proof.Machine

/-!
O44, O45, O52: the causes of faults, and what a fault keeps (60_exceptions.md R206, R207).

`FaultsWith r x` says that outcome `x` is the fault for reason `r`. It passes through the guards of a stimulus
unchanged; a whole operation faults with what its `ph0` or `laterFault`, the first fault of the micro-steps that follow,
gives. So each instruction's causes are read off the micro-steps' own, and in an orderly state there is none of them but
a second INIT and a second ATTACH.
-/

namespace Sys2Proof.Machine

/-! ### Outcomes that are faults -/

/-- The outcome is the fault for this reason. -/
def FaultsWith (r : FaultReason) (x : Result) : Prop := ∃ t, x = .fault (.raised r t)

theorem State.cooperative_faultsWith {s : State} {ch : Nat} {k : Focus → Result} {r : FaultReason} :
    FaultsWith r (s.cooperative ch k) ↔ ∃ c, Ready s ch c ∧ FaultsWith r (k ⟨c, s.shared⟩) := by
  simp only [FaultsWith, State.cooperative_fault, Ready]
  exact ⟨fun ⟨t, hf, hco, c, hc, h⟩ => ⟨c, ⟨hf, hco, hc⟩, t, h⟩, fun ⟨c, ⟨hf, hco, hc⟩, t, h⟩ => ⟨t, hf, hco, c, hc, h⟩⟩

theorem State.independent_faultsWith {s : State} {ch : Nat} {k : Focus → Result} {r : FaultReason} :
    FaultsWith r (s.independent ch k) ↔ ∃ c, Live s ch c ∧ FaultsWith r (k ⟨c, s.shared⟩) := by
  simp only [FaultsWith, State.independent_fault, Live]
  exact ⟨fun ⟨t, hf, c, hc, h⟩ => ⟨c, ⟨hf, hc⟩, t, h⟩, fun ⟨c, ⟨hf, hc⟩, t, h⟩ => ⟨t, hf, c, hc, h⟩⟩

theorem requires_faultsWith {cond : Bool} {why : NotEnabled} {k : Result} {r : FaultReason} :
    FaultsWith r (requires cond why k) ↔ cond = true ∧ FaultsWith r k := by
  simp only [FaultsWith, requires_fault, exists_and_left]

theorem State.finishMicro_faultsWith {s : State} {ch : Nat} {m : MicroResult} {r : FaultReason} :
    FaultsWith r (s.finishMicro ch m) ↔ m = .error r := by
  simp only [FaultsWith, State.finishMicro_fault, Fault.raised.injEq]
  exact ⟨fun ⟨t, why, h, e, _⟩ => e ▸ h, fun h => ⟨_, r, h, rfl, rfl⟩⟩

theorem State.finishStep_faultsWith {s : State} {ch : Nat} {m : Except FaultReason Focus} {r : FaultReason} :
    FaultsWith r (s.finishStep ch m) ↔ m = .error r := by
  simp only [FaultsWith, State.finishStep_fault, Fault.raised.injEq]
  exact ⟨fun ⟨t, why, h, e, _⟩ => e ▸ h, fun h => ⟨_, r, h, rfl, rfl⟩⟩

/-! ### Whole operations -/

/-- The reason for which one of the next `n` micro-steps faults, `q` coming next in `f`. -/
def laterFault (ch : Nat) : Nat → Focus → Option Pending → Option FaultReason
  | 0, _, _ => none
  | _ + 1, _, none => none
  | n + 1, f, some q =>
    match runMicro q ch f with
    | .ok (f', q') => laterFault ch n f' q'
    | .error r => some r

@[simp] theorem laterFault_ended (ch n : Nat) (f : Focus) : laterFault ch n f none = none := by
  cases n <;> rfl

theorem laterFault_of_ok {ch : Nat} {f f' : Focus} {q : Pending} {q' : Option Pending}
    (h : runMicro q ch f = .ok (f', q')) (n : Nat) : laterFault ch (n + 1) f (some q) = laterFault ch n f' q' := by
  rw [laterFault, h]

theorem laterFault_of_error {ch : Nat} {f : Focus} {q : Pending} {r : FaultReason} (h : runMicro q ch f = .error r)
    (n : Nat) : laterFault ch (n + 1) f (some q) = some r := by
  rw [laterFault, h]

/-- An operation run to its end faults with what the first of its micro-steps to fault gives. -/
theorem State.runToEnd_faultsWith {s : State} {ch : Nat} (hch : ch < s.chans.length) {r : FaultReason} (n : Nat)
    (f : Focus) (q : Option Pending) :
    FaultsWith r ((s.midway ch f q).runToEnd n) ↔ laterFault ch n f q = some r := by
  induction n generalizing f q with
  | zero => exact ⟨nofun, nofun⟩
  | succ n ih =>
    cases q with
    | none => exact ⟨nofun, nofun⟩
    | some q =>
      cases hm : runMicro q ch f with
      | ok x =>
        obtain ⟨f', q'⟩ := x
        rw [State.runToEnd_midway hch hm, laterFault_of_ok hm, ih]
      | error why =>
        have hfault : (s.midway ch f (some q)).runPending = _ :=
          State.runPending_fault.2 ⟨ch, q, f.c, why, rfl, State.put_same s ch f hch, hm, rfl⟩
        rw [State.runToEnd, hfault, laterFault_of_error hm]
        simp only [State.midway, Option.map_some, FaultsWith, Host.Outcome.fault.injEq, Fault.raised.injEq,
          exists_and_left, exists_eq', and_true, Option.some.injEq]

/-- An operation faults for this reason in its `ph0`, which answers `m`, or, with P = 0, in a later micro-step. -/
def OperationFaults (ch : Nat) (p : Bool) (m : MicroResult) (r : FaultReason) : Prop :=
  m = .error r ∨ p = false ∧ ∃ f q, m = .ok (f, q) ∧ laterFault ch 2 f q = some r

theorem operationFaults_error {ch : Nat} {p : Bool} {why r : FaultReason} :
    OperationFaults ch p (.error why) r ↔ why = r := by
  constructor
  · rintro (h | ⟨-, _, _, ⟨⟩, -⟩)
    exact Except.error.inj h
  · rintro rfl
    exact .inl rfl

theorem operationFaults_ok {ch : Nat} {p : Bool} {f : Focus} {q : Option Pending} {r : FaultReason} :
    OperationFaults ch p (.ok (f, q)) r ↔ p = false ∧ laterFault ch 2 f q = some r := by
  constructor
  · rintro (h | ⟨hp, f', q', h, hlater⟩)
    · cases h
    · cases h
      exact ⟨hp, hlater⟩
  · rintro ⟨hp, hlater⟩
    exact .inr ⟨hp, f, q, rfl, hlater⟩

theorem State.startOperation_faultsWith {s : State} {ch : Nat} (hch : ch < s.chans.length) {p : Bool} {m : MicroResult}
    {r : FaultReason} : FaultsWith r (s.startOperation ch p m) ↔ OperationFaults ch p m r := by
  cases m with
  | error why =>
    rw [operationFaults_error]
    simp [FaultsWith, State.startOperation, State.finishMicro, State.raiseFault]
  | ok x =>
    obtain ⟨f, q⟩ := x
    rw [operationFaults_ok]
    cases p with
    | true => exact ⟨nofun, nofun⟩
    | false =>
      rw [eq_self, true_and]
      exact State.runToEnd_faultsWith hch 2 f q

/-- An operation that answers in its `ph0` does not fault. -/
theorem not_operationFaults_answer {ch ch' : Nat} {p : Bool} {f : Focus} {op : Op} {st : Status} {val : Nat}
    {payload : List Byte} {r : FaultReason} : ¬OperationFaults ch p (f.answer op ch' st val payload) r := by
  simp [Focus.answer, operationFaults_ok]

/-! ### The causes of each micro-step (60_exceptions.md R206) -/

theorem enqueueSlotBad_iff {c : Channel} : enqueueSlotBad c ↔ c.wt.registered = (c.writeState == .idle) := by
  unfold enqueueSlotBad
  cases c.writeState <;> simp [WriteState.beq_eq_decide]

theorem Shared.releaseWrite_error {g : Shared} {lp : Bool} {r : FaultReason} :
    g.releaseWrite lp = .error r ↔ (if lp then g.dsCount else g.hfCount) = 0 ∧ r = .pgUnderflow := by
  cases lp
  · exact Shared.disableHf_error
  · exact Shared.allowDs_error

theorem enqueuePh1_error_iff {k n : Nat} {f : Focus} {r : FaultReason} :
    enqueuePh1 k n f = .error r ↔ enqueueSlotBad f.c ∧ r = .schedBadSlot := by
  rw [enqueuePh1_error, enqueueSlotBad_iff, and_comm]

/-- TASKW `ph1` unregisters before it releases (60_exceptions.md R215 (d)). -/
theorem taskwPh1_error_iff {ch : Nat} {f : Focus} {r : FaultReason} :
    taskwPh1 ch f = .error r ↔ (f.c.wt.registered = false ∧ r = .schedBadSlot) ∨
      (f.c.wt.registered = true ∧ (if f.c.lp then f.g.dsCount else f.g.hfCount) = 0 ∧ r = .pgUnderflow) := by
  cases hreg : f.c.wt.registered with
  | false => simp [taskwPh1, Focus.unregisterWt_error.2 ⟨hreg, rfl⟩, eq_comm (a := r)]
  | true =>
    by_cases hheld : (if f.c.lp then f.g.dsCount else f.g.hfCount) = 0
    · have hrelease : ({ f.g with draws := f.g.draws + 1 } : Shared).releaseWrite f.c.lp = .error .pgUnderflow :=
        Shared.releaseWrite_error.2 ⟨hheld, rfl⟩
      simp [taskwPh1, Focus.unregisterWt_ok.2 ⟨hreg, rfl⟩, hrelease, hheld, eq_comm (a := r)]
    · simp [taskwPh1_eq hreg hheld, hheld]

/-- CANCEL `ph2` releases before it unregisters (60_exceptions.md R215 (d)). -/
theorem cancelPh2_error_iff {ch : Nat} {f : Focus} {r : FaultReason} :
    cancelPh2 ch f = .error r ↔ (f.g.hfCount = 0 ∧ r = .pgUnderflow) ∨
      (f.g.hfCount ≠ 0 ∧ f.c.rt.registered = false ∧ r = .schedBadSlot) := by
  by_cases hheld : f.g.hfCount = 0
  · simp [cancelPh2, Shared.disableHf_error.2 ⟨hheld, rfl⟩, hheld, eq_comm (a := r)]
  · cases hreg : f.c.rt.registered with
    | false =>
      have hunregister (g : Shared) : (⟨f.c, g⟩ : Focus).unregisterRt = .error .schedBadSlot :=
        Focus.unregisterRt_error.2 ⟨hreg, rfl⟩
      simp [cancelPh2, Shared.disableHf_ok.2 ⟨hheld, rfl⟩, hunregister, hheld, eq_comm (a := r)]
    | true => simp [cancelPh2_ok.2 ⟨rfl, hheld, hreg, rfl⟩, hheld]

/-- Of the micro-steps after `ph0` three can fault. -/
theorem runMicro_error_iff {q : Pending} {ch : Nat} {f : Focus} {r : FaultReason} :
    runMicro q ch f = .error r ↔
      ((∃ k n, q = .enqueuePh1 k n) ∧ enqueueSlotBad f.c ∧ r = .schedBadSlot) ∨
      (q = .cancelPh2 ∧ ((f.g.hfCount = 0 ∧ r = .pgUnderflow) ∨
        (f.g.hfCount ≠ 0 ∧ f.c.rt.registered = false ∧ r = .schedBadSlot))) ∨
      (q = .taskwPh1 ∧ ((f.c.wt.registered = false ∧ r = .schedBadSlot) ∨
        (f.c.wt.registered = true ∧ (if f.c.lp then f.g.dsCount else f.g.hfCount) = 0 ∧ r = .pgUnderflow))) := by
  cases q with
  | enqueuePh1 k n => simp [runMicro, enqueuePh1_error_iff]
  | cancelPh2 => simp [runMicro, cancelPh2_error_iff]
  | taskwPh1 => simp [runMicro, taskwPh1_error_iff]
  | enqueuePh2 k n => simp [runMicro, enqueuePh2]
  | armPh1 => simp [runMicro, armPh1]
  | armPh2 => simp [runMicro, armPh2]
  | cancelPh1 => simp [runMicro, cancelPh1]
  | taskrPh1 => simp [runMicro, taskrPh1]

/-! ### The causes of each operation -/

/-- The micro-step after which none can fault. -/
theorem laterFault_last {ch n : Nat} {f : Focus} {q : Pending} {r : FaultReason}
    (h : ∀ f' q', runMicro q ch f = .ok (f', q') → laterFault ch n f' q' = none) :
    laterFault ch (n + 1) f (some q) = some r ↔ runMicro q ch f = .error r := by
  cases hm : runMicro q ch f with
  | ok x =>
    obtain ⟨f', q'⟩ := x
    simp [laterFault_of_ok hm, h f' q' hm]
  | error why => simp [laterFault_of_error hm]

/-- ENQUEUE past its checks with a byte accepted, P = 0, and its slot not as `ph1` needs it. -/
theorem enqueue_operationFaults {ch : Nat} {p : Bool} {bs : List Byte} {f : Focus} {r : FaultReason} :
    OperationFaults ch p (enqueuePh0 ch bs f) r ↔ p = false ∧ f.c.initialized = true ∧ f.c.wqAttached = true ∧
      (f.c.wq.push bs).1 ≠ 0 ∧ enqueueSlotBad f.c ∧ r = .schedBadSlot := by
  cases hi : f.c.initialized with
  | false => simp [enqueuePh0_notInitialized hi, not_operationFaults_answer]
  | true =>
    cases hw : f.c.wqAttached with
    | false => simp [enqueuePh0_notAttached hi hw, not_operationFaults_answer]
    | true =>
      by_cases hk : (f.c.wq.push bs).1 = 0
      · simp only [enqueuePh0_accepts_none hi hw hk, not_operationFaults_answer, hk, ne_eq, not_true_eq_false,
          false_and, and_false]
      · rw [enqueuePh0_push hi hw hk, operationFaults_ok, laterFault_last fun f' q' h => ?_]
        · rw [runMicro, enqueuePh1_error_iff]
          simp only [ne_eq, hk, not_false_eq_true, true_and]
          exact Iff.rfl
        · obtain ⟨rfl, -⟩ := enqueuePh1_ok.1 h
          rfl

/-- ARM past its checks with its slot registered, P = 0 or 1. -/
theorem arm_operationFaults {ch timeout : Nat} {p : Bool} {f : Focus} {r : FaultReason} :
    OperationFaults ch p (armPh0 ch timeout f) r ↔ f.c.initialized = true ∧ f.c.rqAttached = true ∧
      f.c.readState = .idle ∧ f.c.rt.registered = true ∧ r = .schedBadSlot := by
  cases hi : f.c.initialized with
  | false => simp [armPh0_notInitialized hi, not_operationFaults_answer]
  | true =>
    cases hr : f.c.rqAttached with
    | false => simp [armPh0_notAttached hi hr, not_operationFaults_answer]
    | true =>
      cases hs : f.c.readState with
      | armed => simp [armPh0_alreadyActive hi hr hs, not_operationFaults_answer]
      | idle =>
        cases ht : f.c.rt.registered with
        | true => simp [armPh0_badSlot hi hr hs ht, operationFaults_error, eq_comm (a := r)]
        | false =>
          have hlater (f' : Focus) : laterFault ch 2 f' (some .armPh1) = none := rfl
          simp [armPh0_register hi hr hs ht, operationFaults_ok, hlater]

/-- CANCEL of an Armed channel, P = 0, for what its `ph2` finds. -/
theorem cancel_operationFaults {ch : Nat} {p : Bool} {f : Focus} {r : FaultReason} :
    OperationFaults ch p (cancelPh0 ch f) r ↔ p = false ∧ f.c.readState = .armed ∧
      ((f.g.hfCount = 0 ∧ r = .pgUnderflow) ∨
        (f.g.hfCount ≠ 0 ∧ f.c.rt.registered = false ∧ r = .schedBadSlot)) := by
  cases hs : f.c.readState with
  | idle => simp [cancelPh0, hs, not_operationFaults_answer]
  | armed =>
    rw [cancelPh0_ok.2 (.inr ⟨hs, rfl, rfl⟩), operationFaults_ok,
      laterFault_of_ok (f := ⟨{ f.c with readState := .idle }, f.g⟩) (q := .cancelPh1) rfl,
      laterFault_last fun f' q' h => ?_]
    · rw [runMicro, cancelPh2_error_iff, eq_self, true_and]
      exact Iff.rfl
    · rfl

/-- TASKW, P = 0, with its slot registered and nothing to release. -/
theorem taskw_operationFaults {ch : Nat} {p : Bool} {f : Focus} {r : FaultReason} (hreg : f.c.wt.registered = true) :
    OperationFaults ch p (taskwPh0 f) r ↔
      p = false ∧ (if f.c.lp then f.g.dsCount else f.g.hfCount) = 0 ∧ r = .pgUnderflow := by
  rw [taskwPh0, operationFaults_ok, laterFault_last fun f' q' h => ?_]
  · rw [runMicro, taskwPh1_error_iff]
    simp only [hreg, Bool.true_eq_false, false_and, false_or, true_and]
  · obtain ⟨rfl, -⟩ := taskwPh1_ok h
    rfl

/-- TASKR with its slot registered, as it is where TASKR is enabled, does not fault (30_encoding.md R118, NE4). -/
theorem taskr_not_operationFaults {ch : Nat} {p : Bool} {f : Focus} {r : FaultReason}
    (hreg : f.c.rt.registered = true) : ¬OperationFaults ch p (taskrPh0 f) r := by
  have hlater (f' : Focus) : laterFault ch 2 f' (some .taskrPh1) = none := rfl
  simp [taskrPh0_ok.2 ⟨rfl, hreg, rfl⟩, operationFaults_ok, hlater]

/-! ### The causes of each instruction -/

theorem State.cooperative_startOperation_faultsWith {s : State} {ch : Nat} {p : Bool} {m : Focus → MicroResult}
    {r : FaultReason} : FaultsWith r (s.cooperative ch fun f => s.startOperation ch p (m f)) ↔
      ∃ c, Ready s ch c ∧ OperationFaults ch p (m ⟨c, s.shared⟩) r := by
  rw [State.cooperative_faultsWith]
  exact exists_congr fun c => and_congr_right fun h => State.startOperation_faultsWith h.ch_lt

/-- TASKW is enabled with its slot registered, so `ph1` faults for the power gate only. -/
theorem exec_taskw_faultsWith {s : State} {ch : Nat} {p : Bool} {r : FaultReason} :
    FaultsWith r (exec (.taskw ch p) s) ↔ ∃ c, Ready s ch c ∧ (c.wt.registered = true ∧
      c.wt.due.reached s.shared.now = true) ∧ p = false ∧ nothingToRelease s c ∧ r = .pgUnderflow := by
  simp only [exec, execTaskw, State.cooperative_faultsWith, requires_faultsWith, Slot.ready_iff]
  exact exists_congr fun c => and_congr_right fun hready => and_congr_right fun ⟨hreg, _⟩ =>
    (State.startOperation_faultsWith hready.ch_lt).trans (taskw_operationFaults hreg)

theorem exec_taskr_not_faultsWith {s : State} {ch : Nat} {p : Bool} {r : FaultReason} :
    ¬FaultsWith r (exec (.taskr ch p) s) := by
  simp only [exec, execTaskr, State.cooperative_faultsWith, requires_faultsWith, Slot.ready_iff]
  rintro ⟨c, hready, ⟨hreg, -⟩, h⟩
  exact taskr_not_operationFaults hreg ((State.startOperation_faultsWith hready.ch_lt).1 h)

theorem multiplexer_error_iff {f : Focus} {r : FaultReason} :
    multiplexer f = .error r ↔ interruptSlotBad f.c ∧ r = .schedBadSlot := by
  obtain ⟨hbad, e⟩ | ⟨hgood, e⟩ := multiplexer_cases f
  · simp [e, hbad, eq_comm (a := r)]
  · simp [e, hgood]

theorem State.runPending_faultsWith {s : State} {r : FaultReason} :
    FaultsWith r s.runPending ↔ ∃ ch c q, s.coop = some ⟨ch, q⟩ ∧ s.chans[ch]? = some c ∧
      runMicro q ch ⟨c, s.shared⟩ = .error r := by
  simp only [FaultsWith, State.runPending_fault, Fault.raised.injEq]
  constructor
  · rintro ⟨t, ch, q, c, why, hco, hc, hm, rfl, -⟩
    exact ⟨ch, c, q, hco, hc, hm⟩
  · rintro ⟨ch, c, q, hco, hc, hm⟩
    exact ⟨_, ch, q, c, r, hco, hc, hm, rfl, rfl⟩

theorem exec_costep_faultsWith {s : State} {r : FaultReason} :
    FaultsWith r (exec .costep s) ↔ ∃ ch c q, InFlight s ch c q ∧ runMicro q ch ⟨c, s.shared⟩ = .error r := by
  have hunfaulted : FaultsWith r (exec .costep s) ↔ s.fault = none ∧ FaultsWith r s.runPending := by
    simp only [FaultsWith, exec, execCostep, State.unfaulted_fault, exists_and_left]
  simp only [hunfaulted, State.runPending_faultsWith, InFlight, and_assoc, exists_and_left]

/-- The rows of the table that COSTEP has are the causes of the micro-steps. -/
theorem causedBy_costep_iff {s : State} {r : FaultReason} :
    r.causedBy s .costep ↔ ∃ ch c q, InFlight s ch c q ∧ runMicro q ch ⟨c, s.shared⟩ = .error r := by
  constructor
  · intro h
    cases r with
    | pgUnderflow =>
      obtain ⟨_, _, ⟨⟩, _⟩ | ⟨ch, c, -, hq, hreg, hnone⟩ | ⟨_, _, ⟨⟩, _⟩ | ⟨ch, c, -, hq, hnone⟩ := h
      · exact ⟨ch, c, _, hq, taskwPh1_error_iff.2 (.inr ⟨hreg, hnone, rfl⟩)⟩
      · exact ⟨ch, c, _, hq, cancelPh2_error_iff.2 (.inl ⟨hnone, rfl⟩)⟩
    | schedBadSlot =>
      obtain ⟨_, _, _, ⟨⟩, _⟩ | ⟨ch, k, n, c, -, hq, hbad⟩ | ⟨_, _, _, _, ⟨⟩, _⟩ | ⟨_, _, ⟨⟩, _⟩ |
        ⟨ch, c, -, hq, hheld, hreg⟩ | ⟨ch, c, -, hq, hreg⟩ | ⟨_, _, ⟨⟩, _⟩ := h
      · exact ⟨ch, c, _, hq, enqueuePh1_error_iff.2 ⟨hbad, rfl⟩⟩
      · exact ⟨ch, c, _, hq, cancelPh2_error_iff.2 (.inr ⟨hheld, hreg, rfl⟩)⟩
      · exact ⟨ch, c, _, hq, taskwPh1_error_iff.2 (.inl ⟨hreg, rfl⟩)⟩
    | reinit => obtain ⟨_, _, _, ⟨⟩, _⟩ := h
    | reattach => obtain ⟨_, _, _, _, ⟨⟩, _⟩ := h
  · rintro ⟨ch, c, q, hq, hm⟩
    obtain ⟨⟨k, n, rfl⟩, hbad, rfl⟩ | ⟨rfl, ⟨hnone, rfl⟩ | ⟨hheld, hreg, rfl⟩⟩ |
      ⟨rfl, ⟨hreg, rfl⟩ | ⟨hreg, hnone, rfl⟩⟩ := runMicro_error_iff.1 hm
    · exact .inr (.inl ⟨ch, k, n, c, rfl, hq, hbad⟩)
    · exact .inr (.inr (.inr ⟨ch, c, rfl, hq, hnone⟩))
    · exact .inr (.inr (.inr (.inr (.inl ⟨ch, c, rfl, hq, hheld, hreg⟩))))
    · exact .inr (.inr (.inr (.inr (.inr (.inl ⟨ch, c, rfl, hq, hreg⟩)))))
    · exact .inr (.inl ⟨ch, c, rfl, hq, hreg, hnone⟩)

/-- ENQUEUE has one row of the table. -/
theorem causedBy_enqueue_iff {s : State} {ch : Nat} {p : Bool} {bs : List Byte} {r : FaultReason} :
    r.causedBy s (.enqueue ch p bs) ↔ ∃ c, Ready s ch c ∧ p = false ∧ c.initialized = true ∧ c.wqAttached = true ∧
      (c.wq.push bs).1 ≠ 0 ∧ enqueueSlotBad c ∧ r = .schedBadSlot := by
  constructor
  · intro h
    cases r with
    | schedBadSlot =>
      obtain ⟨_, _, c, ⟨⟩, hready, hi, hw, hk, hbad⟩ | ⟨_, _, _, _, ⟨⟩, _⟩ | ⟨_, _, _, _, ⟨⟩, _⟩ | ⟨_, _, ⟨⟩, _⟩ |
        ⟨_, _, ⟨⟩, _⟩ | ⟨_, _, ⟨⟩, _⟩ | ⟨_, _, ⟨⟩, _⟩ := h
      exact ⟨c, hready, rfl, hi, hw, Nat.one_le_iff_ne_zero.1 hk, hbad, rfl⟩
    | pgUnderflow => obtain ⟨_, _, ⟨⟩, _⟩ | ⟨_, _, ⟨⟩, _⟩ | ⟨_, _, ⟨⟩, _⟩ | ⟨_, _, ⟨⟩, _⟩ := h
    | reinit => obtain ⟨_, _, _, ⟨⟩, _⟩ := h
    | reattach => obtain ⟨_, _, _, _, ⟨⟩, _⟩ := h
  · rintro ⟨c, hready, rfl, hi, hw, hk, hbad, rfl⟩
    exact .inl ⟨ch, bs, c, rfl, hready, hi, hw, Nat.one_le_iff_ne_zero.2 hk, hbad⟩

/-- An instruction faults with a reason exactly when the table gives a cause: reason by reason, what its micro-steps
fault for is the table's row. -/
theorem exec_faultsWith_iff {i : Instr} {s : State} {r : FaultReason} : FaultsWith r (exec i s) ↔ r.causedBy s i := by
  cases i with
  | init ch lp =>
    simp only [exec, execInit, State.cooperative_faultsWith, State.finishMicro_faultsWith, initPh0_error]
    cases r <;> simp [FaultReason.causedBy]
  | attach ch wq rq =>
    simp only [exec, execAttach, State.cooperative_faultsWith, State.finishMicro_faultsWith, attachPh0_error]
    cases r <;> simp [FaultReason.causedBy]
  | setcb ch en ctx =>
    simp only [exec, execSetcb, State.cooperative_faultsWith, State.finishMicro_faultsWith, setcbPh0_ne_error]
    cases r <;> simp [FaultReason.causedBy]
  | drain ch max =>
    simp only [exec, execDrain, State.cooperative_faultsWith, State.finishMicro_faultsWith, drainPh0_ne_error]
    cases r <;> simp [FaultReason.causedBy]
  | enqueue ch p bs =>
    simp only [exec, execEnqueue, State.cooperative_startOperation_faultsWith, enqueue_operationFaults]
    exact causedBy_enqueue_iff.symm
  | arm ch p timeout =>
    simp only [exec, execArm, State.cooperative_startOperation_faultsWith, arm_operationFaults]
    cases r <;> simp [FaultReason.causedBy]
  | cancel ch p =>
    simp only [exec, execCancel, State.cooperative_startOperation_faultsWith, cancel_operationFaults]
    cases r <;> cases p <;> simp [FaultReason.causedBy]
  | taskw ch p =>
    rw [exec_taskw_faultsWith]
    cases r <;> cases p <;> simp [FaultReason.causedBy, and_assoc]
  | taskr ch p =>
    rw [iff_false_intro exec_taskr_not_faultsWith]
    cases r <;> simp [FaultReason.causedBy]
  | irq ch =>
    simp only [exec, execIrq, State.independent_faultsWith, State.finishStep_faultsWith, multiplexer_error_iff]
    cases r <;> simp [FaultReason.causedBy, interruptSlotBad, Channel.rxneRequest, and_assoc]
  | hwload ch =>
    simp only [exec, execHwload, State.independent_faultsWith, requires_faultsWith, State.finishStep_faultsWith]
    cases r <;> simp [FaultReason.causedBy]
  | hwdone ch =>
    simp only [exec, execHwdone, State.independent_faultsWith, requires_faultsWith, State.finishStep_faultsWith]
    cases r <;> simp [FaultReason.causedBy]
  | hwrx ch b =>
    simp only [exec, execHwrx, State.independent_faultsWith, requires_faultsWith, State.finishStep_faultsWith]
    cases r <;> simp [FaultReason.causedBy]
  | tick dt =>
    simp only [exec, execTick, FaultsWith, State.unfaulted_fault]
    cases r <;> simp [FaultReason.causedBy]
  | costep => exact exec_costep_faultsWith.trans causedBy_costep_iff.symm

/-! ### The state a fault leaves (60_exceptions.md R207) -/

/-- If the outcome is a fault, the machine stops in `s` with `fault` set. -/
def StopsIn (s : State) (x : Result) : Prop := ∀ r t, x = .fault (.raised r t) → t = { s with fault := some r }

theorem State.finishMicro_stopsIn (s : State) (ch : Nat) (m : MicroResult) : StopsIn s (s.finishMicro ch m) := by
  intro r t h
  obtain ⟨why, -, e⟩ := State.finishMicro_fault.1 h
  cases e
  rfl

theorem State.finishStep_stopsIn (s : State) (ch : Nat) (m : Except FaultReason Focus) :
    StopsIn s (s.finishStep ch m) := by
  intro r t h
  obtain ⟨why, -, e⟩ := State.finishStep_fault.1 h
  cases e
  rfl

theorem State.runPending_stopsIn (s : State) : StopsIn s s.runPending := by
  intro r t h
  obtain ⟨ch, q, c, why, -, -, -, e⟩ := State.runPending_fault.1 h
  cases e
  rfl

theorem State.cooperative_stopsIn {s : State} {ch : Nat} {k : Focus → Result} (hk : ∀ f, StopsIn s (k f)) :
    StopsIn s (s.cooperative ch k) := by
  intro r t h
  obtain ⟨-, -, c, -, h⟩ := State.cooperative_fault.1 h
  exact hk _ r t h

theorem State.independent_stopsIn {s : State} {ch : Nat} {k : Focus → Result} (hk : ∀ f, StopsIn s (k f)) :
    StopsIn s (s.independent ch k) := by
  intro r t h
  obtain ⟨-, c, -, h⟩ := State.independent_fault.1 h
  exact hk _ r t h

theorem requires_stopsIn {s : State} {cond : Bool} {why : NotEnabled} {k : Result} (hk : StopsIn s k) :
    StopsIn s (requires cond why k) :=
  fun r t h => hk r t (requires_fault.1 h).2

/-- An operation's start alone is one micro-step. -/
theorem State.startOperation_stopsIn (s : State) (ch : Nat) (m : MicroResult) :
    StopsIn s (s.startOperation ch true m) := by
  rw [State.startOperation_preempt]
  exact s.finishMicro_stopsIn ch m

/-- A fault of an indivisible instruction discards all it did. -/
theorem exec_preemptible_stopsIn (i : Instr) (s : State) : StopsIn s (exec i.preemptible s) := by
  cases i with
  | init | attach | setcb | drain => exact State.cooperative_stopsIn fun _ => s.finishMicro_stopsIn _ _
  | enqueue | arm | cancel => exact State.cooperative_stopsIn fun _ => s.startOperation_stopsIn _ _
  | taskw | taskr => exact State.cooperative_stopsIn fun _ => requires_stopsIn (s.startOperation_stopsIn _ _)
  | irq => exact State.independent_stopsIn fun _ => s.finishStep_stopsIn _ _
  | hwload | hwdone | hwrx => exact State.independent_stopsIn fun _ => requires_stopsIn (s.finishStep_stopsIn _ _)
  | tick =>
    intro r t h
    cases (State.unfaulted_fault.1 h).2
  | costep =>
    intro r t h
    exact s.runPending_stopsIn r t (State.unfaulted_fault.1 h).2

theorem andThen_fault {x : Result} {k : State → Result} {r : Fault} :
    andThen x k = .fault r ↔ x = .fault r ∨ ∃ u, x = .next u ∧ k u = .fault r := by
  cases x <;> simp [andThen]

/-- COSTEPs that fault do so in the first of them or after it. -/
theorem costepsToEnd_fault {n : Nat} {s : State} {r : Fault} (h : costepsToEnd (n + 1) s = .fault r) :
    exec .costep s = .fault r ∨ ∃ u, exec .costep s = .next u ∧ costepsToEnd n u = .fault r := by
  rw [costepsToEnd] at h
  cases hco : s.coop with
  | none => rw [hco] at h; cases h
  | some co =>
    simp only [hco] at h
    exact andThen_fault.1 h

/-- Settles O45: an operation is its preemptible form and at most two COSTEPs, and each of the three stops in the state
it started from. -/
theorem faultKeepsTheStateBefore : Obligations.FaultKeepsTheStateBefore := by
  intro s t i r h
  have hcostep (u : State) : StopsIn u (exec .costep u) := exec_preemptible_stopsIn .costep u
  by_cases hp : i.preemptible = i
  · have h' : exec i.preemptible s = .fault (.raised r t) := hp.symm ▸ h
    exact .inl ⟨h', exec_preemptible_stopsIn i s r t h'⟩
  · rw [exec_whole hp] at h
    obtain h | ⟨u, hu, h⟩ := andThen_fault.1 h
    · exact .inl ⟨h, exec_preemptible_stopsIn i s r t h⟩
    · refine .inr ⟨hp, u, hu, ?_⟩
      obtain h | ⟨v, hv, h⟩ := costepsToEnd_fault h
      · exact .inl ⟨h, hcostep u r t h⟩
      · obtain h | ⟨w, -, h⟩ := costepsToEnd_fault h
        · exact .inr ⟨v, hv, h, hcostep v r t h⟩
        · cases h

/-- Settles O44: the causes are those of the micro-steps, and the state a fault leaves has the field set. -/
theorem faultsHaveTheirListedCauses : Obligations.FaultsHaveTheirListedCauses := by
  refine fun s i r => ⟨exec_faultsWith_iff, fun t h => ⟨?_, ?_⟩⟩
  · refine Classical.byContradiction fun hf => ?_
    cases (exec_faulted hf i).symm.trans h
  · obtain ⟨-, rfl⟩ | ⟨-, u, -, ⟨-, rfl⟩ | ⟨v, -, -, rfl⟩⟩ := faultKeepsTheStateBefore s t i r h <;> rfl

/-! ### Runs that avoid the hazard (60_exceptions.md R206, last paragraph) -/

theorem Ready.pendingOn {s : State} {ch : Nat} {c : Channel} (h : Ready s ch c) : s.pendingOn ch = none := by
  rw [State.pendingOn, h.2.1]

theorem InFlight.pendingOn {s : State} {ch : Nat} {c : Channel} {q : Pending} (h : InFlight s ch c q) :
    s.pendingOn ch = some q := by
  rw [State.pendingOn, h.2.1]
  exact if_pos rfl

/-- A channel's share of a power-gate counter is part of it (10_state.md R30, I-c). -/
theorem sum_mapIdx_ne_zero {chans : List Channel} {share : Nat → Channel → Nat} {ch : Nat} {c : Channel}
    (hc : chans[ch]? = some c) (hpos : 0 < share ch c) : (chans.mapIdx share).sum ≠ 0 := by
  have hmem : share ch c ∈ chans.mapIdx share :=
    List.mem_of_getElem? (i := ch) (by rw [List.getElem?_mapIdx, hc, Option.map_some])
  exact Nat.ne_of_gt (List.sum_pos_iff_exists_pos_nat.2 ⟨_, hmem, hpos⟩)

/-- A write path that holds its slot holds its power-gate resource too. -/
theorem Sound.releasable {s : State} {ch : Nat} {c : Channel} (hs : Sound s) (hc : s.chans[ch]? = some c)
    (hreg : c.wt.registered = true) : ¬nothingToRelease s c := by
  have hheld : writeHeld (s.pendingOn ch) c = true := (hs.channels ch c hc).wtHeld.symm.trans hreg
  unfold nothingToRelease
  cases hlp : c.lp with
  | true =>
    rw [if_pos rfl, hs.dsExact]
    exact sum_mapIdx_ne_zero hc (by simp [dsShare, hheld, hlp])
  | false =>
    rw [if_neg Bool.false_ne_true, hs.hfExact]
    exact sum_mapIdx_ne_zero hc (by simp [hfShare, hheld, hlp])

/-- In a sound state, hazard or not, every release finds a count to take from. -/
theorem Sound.not_pgUnderflow {s : State} (hs : Sound s) (i : Instr) : ¬FaultReason.pgUnderflow.causedBy s i := by
  rintro (⟨ch, c, -, ⟨-, -, hc⟩, hreg, -, hnone⟩ | ⟨ch, c, -, ⟨-, -, hc⟩, hreg, hnone⟩ |
    ⟨ch, c, -, ⟨-, -, hc⟩, harmed, hnone⟩ | ⟨ch, c, -, hq, hnone⟩)
  · exact hs.releasable hc hreg hnone
  · exact hs.releasable hc hreg hnone
  · obtain ⟨-, -, -, -, hcount⟩ := hs.armed hc harmed
    exact hcount hnone
  · refine hs.hfCount_ne_zero hq.2.2 ?_ hnone
    rw [hq.pendingOn]
    exact Bool.or_true _

/-- ENQUEUE finds its slot registered exactly while Draining (10_state.md R30, I-a). -/
theorem SoundChannel.not_enqueueSlotBad {p : Option Pending} {c : Channel} (h : SoundChannel p c)
    (hp : p ≠ some .taskwPh1) : ¬enqueueSlotBad c := by
  have hreg : c.wt.registered = (c.writeState == .draining) := by
    rw [h.wtHeld, writeHeld, beq_false_of_ne hp, Bool.or_false]
  rintro (⟨hidle, hbad⟩ | ⟨hdraining, hbad⟩)
  · rw [hreg, hidle] at hbad; cases hbad
  · rw [hreg, hdraining] at hbad; cases hbad

/-- The transmit side wakes its task only from an enabled source. -/
theorem enabled_of_transmitWakes {c : Channel} (h : transmitWakes c = true) :
    c.ier.txeie = true ∨ c.ier.tcie = true := by
  unfold transmitWakes at h
  split at h
  next hq => exact .inl (Bool.and_eq_true_iff.1 hq).1
  next => exact .inr (Bool.and_eq_true_iff.1 h).1

/-- An enabled source has its slot registered (10_state.md R30, I-a and I-b with their windows). -/
theorem not_interruptSlotBad {now : Nat} {p : Option Pending} {c : Channel} (h : SoundChannel p c)
    (ho : OrderlyChannel now p c) : ¬interruptSlotBad c := by
  rintro (⟨hwakes, hreg⟩ | ⟨hq, hreg⟩)
  · have hdraining := ho.enabledDraining (enabled_of_transmitWakes hwakes)
    rw [h.wtHeld, writeHeld, hdraining] at hreg
    cases hreg
  · have henabled : c.ier.rxneie = true := (Bool.and_eq_true_iff.1 hq).1
    rw [h.rxneieHeld] at henabled
    rw [h.rtHeld, readHeld, armPending, cancelPending] at hreg
    simp only [Bool.or_eq_false_iff] at hreg
    obtain ⟨⟨harmed, hcancel, -⟩, -, harm⟩ := hreg
    rw [harmed, hcancel, harm] at henabled
    cases henabled

/-- In an orderly state every scheduler primitive finds its slot as it needs it. -/
theorem Orderly.not_schedBadSlot {s : State} (hs : Orderly s) (i : Instr) : ¬FaultReason.schedBadSlot.causedBy s i := by
  have hchan := hs.sound.channels
  rintro (⟨ch, _, c, -, hready, -, -, -, hbad⟩ | ⟨ch, k, n, c, -, hq, hbad⟩ |
    ⟨ch, _, _, c, -, hready, -, -, hidle, hreg⟩ | ⟨ch, c, -, ⟨-, -, hc⟩, harmed, -, hunreg⟩ |
    ⟨ch, c, -, hq, -, hunreg⟩ | ⟨ch, c, -, hq, hunreg⟩ | ⟨ch, c, -, ⟨-, hc⟩, hbad⟩)
  · exact (hchan ch c hready.2.2).not_enqueueSlotBad (by rw [hready.pendingOn]; nofun) hbad
  · exact (hchan ch c hq.2.2).not_enqueueSlotBad (by rw [hq.pendingOn]; nofun) hbad
  · rw [(hchan ch c hready.2.2).rtHeld, hready.pendingOn, readHeld, hidle] at hreg
    cases hreg
  · obtain ⟨-, -, hreg, -⟩ := hs.sound.armed hc harmed
    exact Bool.false_ne_true (hunreg.symm.trans hreg)
  · have hheld : readHeld (some .cancelPh2) c = true := Bool.or_true _
    rw [(hchan ch c hq.2.2).rtHeld, hq.pendingOn, hheld] at hunreg
    cases hunreg
  · have hheld : writeHeld (some .taskwPh1) c = true := Bool.or_true _
    rw [(hchan ch c hq.2.2).wtHeld, hq.pendingOn, hheld] at hunreg
    cases hunreg
  · refine not_interruptSlotBad (hchan ch c hc) (hs.channels ch c hc) (hbad.imp_right ?_)
    rintro ⟨henabled, hpending, hunreg⟩
    exact ⟨Bool.and_eq_true_iff.2 ⟨henabled, hpending⟩, hunreg⟩

/-- Settles O52: the invariant excludes every other cause. -/
theorem orderlyMachineDoesNotFault : Obligations.OrderlyMachineDoesNotFault := by
  intro s t i r hs h
  have hcause := exec_faultsWith_iff.1 ⟨t, h⟩
  cases r with
  | pgUnderflow => exact absurd hcause (hs.sound.not_pgUnderflow i)
  | schedBadSlot => exact absurd hcause (hs.not_schedBadSlot i)
  | reinit => exact .inl rfl
  | reattach => exact .inr rfl

end Sys2Proof.Machine

/-!
O60: no outcome depends on an unspecified value (70_reset_and_hazards.md R242).

`Channel.Agrees` reads `Channel.known` field by field: a value need agree only where the state gives it a meaning. Each
micro-step and each step outside cooperative context, run on a focus and on what of it is specified, ends in foci that
agree; guards and commits carry this to the indivisible instructions, and COSTEPs from there to whole operations. The
invariant is needed for two things: nothing is enabled on a channel before INIT, and no operation is in flight on one.
-/

namespace Sys2Proof.Machine

/-! ### In two channels the same is specified -/

/-- The two channels agree in every value that is specified in either (10_state.md R54, 60_exceptions.md R227). -/
structure Channel.Agrees (c d : Channel) : Prop where
  initialized : c.initialized = d.initialized
  writeState : c.writeState = d.writeState
  readState : c.readState = d.readState
  wqAttached : c.wqAttached = d.wqAttached
  rqAttached : c.rqAttached = d.rqAttached
  readTimeout : d.rt.registered = true → c.readTimeout = d.readTimeout
  cbEn : c.cbEn = d.cbEn
  cbCtx : d.cbEn = true → c.cbCtx = d.cbCtx
  lp : d.initialized = true → c.lp = d.lp
  ier : c.ier = d.ier
  isr : d.initialized = true → c.isr = d.isr
  tdr : d.initialized = true → d.isr.txe = false → c.tdr = d.tdr
  rdr : d.initialized = true → d.isr.rxne = true → c.rdr = d.rdr
  tsrBusy : c.tsrBusy = d.tsrBusy
  tsr : d.tsrBusy = true → c.tsr = d.tsr
  wq : c.wq = d.wq
  rq : c.rq = d.rq
  wtRegistered : c.wt.registered = d.wt.registered
  wt : d.wt.registered = true → c.wt = d.wt
  rtRegistered : c.rt.registered = d.rt.registered
  rt : d.rt.registered = true → c.rt = d.rt
  txlog : c.txlog = d.txlog
  linelog : c.linelog = d.linelog

/-- A value that counts only where `b` holds. -/
theorem ite_eq_ite_of_agree {α : Type} {b : Bool} {x y z : α} (h : b = true → x = y) :
    (if b then x else z) = if b then y else z :=
  ite_congr rfl h fun _ => rfl

/-- What agrees is the same once the unspecified values are replaced. -/
theorem Channel.Agrees.known_eq {c d : Channel} (h : c.Agrees d) : c.known = d.known := by
  have hlp : (d.initialized && c.lp) = (d.initialized && d.lp) := by
    cases hi : d.initialized with
    | false => rfl
    | true => rw [h.lp hi]
  have htdr : (if d.initialized && !c.isr.txe then c.tdr else 0) =
      if d.initialized && !d.isr.txe then d.tdr else 0 := by
    cases hi : d.initialized with
    | false => rfl
    | true =>
      rw [h.isr hi]
      exact ite_eq_ite_of_agree fun htxe => h.tdr hi (Bool.not_eq_true' _ ▸ htxe)
  have hrdr : (if d.initialized && c.isr.rxne then c.rdr else 0) =
      if d.initialized && d.isr.rxne then d.rdr else 0 := by
    cases hi : d.initialized with
    | false => rfl
    | true =>
      rw [h.isr hi]
      exact ite_eq_ite_of_agree (h.rdr hi)
  simp only [Channel.known, h.initialized, h.writeState, h.readState, h.wqAttached, h.rqAttached, h.cbEn, h.ier,
    h.tsrBusy, h.wq, h.rq, h.wtRegistered, h.rtRegistered, h.txlog, h.linelog, ite_eq_ite_of_agree h.readTimeout,
    ite_eq_ite_of_agree h.cbCtx, ite_eq_ite_of_agree h.isr, ite_eq_ite_of_agree h.tsr, ite_eq_ite_of_agree h.wt,
    ite_eq_ite_of_agree h.rt, hlp, htdr, hrdr]

/-- The replaced values are the unspecified ones. -/
theorem Channel.known_agrees (c : Channel) : c.known.Agrees c where
  initialized := rfl
  writeState := rfl
  readState := rfl
  wqAttached := rfl
  rqAttached := rfl
  readTimeout h := if_pos h
  cbEn := rfl
  cbCtx h := if_pos h
  lp h := by rw [Channel.known, h, Bool.true_and]
  ier := rfl
  isr h := if_pos h
  tdr hi h := if_pos (by rw [hi, h]; rfl)
  rdr hi h := if_pos (by rw [hi, h]; rfl)
  tsrBusy := rfl
  tsr h := if_pos h
  wq := rfl
  rq := rfl
  wtRegistered := by cases h : c.wt.registered <;> simp [Channel.known, h]
  wt h := if_pos h
  rtRegistered := by cases h : c.rt.registered <;> simp [Channel.known, h]
  rt h := if_pos h
  txlog := rfl
  linelog := rfl

theorem Channel.known_known (c : Channel) : c.known.known = c.known := c.known_agrees.known_eq

/-! ### In two foci the same is specified -/

/-- The shared state without the count of free values drawn, which is the model's own (log 4). -/
def Shared.known (g : Shared) : Shared := { g with draws := 0 }

/-- What of a focus is specified. -/
def Focus.known (f : Focus) : Focus := ⟨f.c.known, f.g.known⟩

/-- The two foci agree in every value that is specified in either. -/
structure Focus.Agrees (f f' : Focus) : Prop where
  c : f.c.Agrees f'.c
  g : f.g.known = f'.g.known

theorem Focus.known_agrees (f : Focus) : f.known.Agrees f := ⟨f.c.known_agrees, rfl⟩

theorem Focus.Agrees.known_eq {f f' : Focus} (h : f.Agrees f') : f.known = f'.known := by
  rw [Focus.known, Focus.known, h.c.known_eq, h.g]

/-- The context is read only where a callback is registered (10_state.md R28). -/
theorem Channel.Agrees.event_eq {c d : Channel} (h : c.Agrees d) (ch : Nat) (kind : EventKind) :
    (if c.cbEn then [(⟨ch, kind, c.cbCtx⟩ : Event)] else []) = if d.cbEn then [⟨ch, kind, d.cbCtx⟩] else [] := by
  rw [h.cbEn]
  exact ite_eq_ite_of_agree fun hen => by rw [h.cbCtx hen]

theorem Focus.known_agrees_report (f : Focus) (ch : Nat) (kind : EventKind) :
    (f.known.report ch kind).Agrees (f.report ch kind) := by
  rw [Focus.report_eq, Focus.report_eq, Focus.known, f.c.known_agrees.event_eq]
  exact ⟨f.c.known_agrees, rfl⟩

/-- What of the answer of a micro-step is specified. -/
def knownMicro (m : MicroResult) : MicroResult := m.map fun (f, p) => (f.known, p)

theorem Focus.Agrees.knownMicro_eq {f f' : Focus} (h : f.Agrees f') (p : Option Pending) :
    knownMicro (.ok (f, p)) = knownMicro (.ok (f', p)) :=
  congrArg (fun x => Except.ok (x, p)) h.known_eq

theorem Focus.Agrees.answer {f f' : Focus} (h : f.Agrees f') (op : Op) (ch : Nat) (st : Status) (val : Nat)
    (payload : List Byte) :
    knownMicro (f.answer op ch st val payload) = knownMicro (f'.answer op ch st val payload) := by
  refine knownMicro_eq ?_ none
  exact ⟨h.c, congrArg (Shared.respond · op ch st val payload) h.g⟩

/-! ### The first micro-steps -/

theorem initPh0_known (ch : Nat) (lp : Bool) (f : Focus) :
    knownMicro (initPh0 ch lp f.known) = knownMicro (initPh0 ch lp f) := by
  cases hi : f.c.initialized with
  | true => rw [initPh0_error.2 ⟨hi, rfl⟩, (initPh0_error (f := f.known)).2 ⟨hi, rfl⟩]
  | false =>
    rw [initPh0_ok.2 ⟨hi, rfl, rfl⟩, (initPh0_ok (f := f.known)).2 ⟨hi, rfl, rfl⟩]
    refine Focus.Agrees.knownMicro_eq ?_ none
    exact ⟨{ f.c.known_agrees with
      initialized := rfl, lp := fun _ => rfl, ier := rfl, isr := fun _ => rfl, tdr := nofun, rdr := nofun
      tsrBusy := rfl, tsr := nofun }, rfl⟩

theorem attachPh0_known (ch : Nat) (w r : Bool) (f : Focus) :
    knownMicro (attachPh0 ch w r f.known) = knownMicro (attachPh0 ch w r f) := by
  cases hi : f.c.initialized with
  | false =>
    rw [attachPh0_notInitialized hi, attachPh0_notInitialized (f := f.known) hi]
    exact f.known_agrees.answer ..
  | true =>
    by_cases ha : f.c.wqAttached = true ∨ f.c.rqAttached = true
    · rw [attachPh0_error.2 ⟨hi, ha, rfl⟩, (attachPh0_error (f := f.known)).2 ⟨hi, ha, rfl⟩]
    · simp only [not_or, Bool.not_eq_true] at ha
      obtain ⟨hw, hr⟩ := ha
      rw [attachPh0_attaches hi hw hr, attachPh0_attaches (f := f.known) hi hw hr]
      refine Focus.Agrees.answer ?_ ..
      exact ⟨{ f.c.known_agrees with wqAttached := rfl, rqAttached := rfl }, rfl⟩

theorem setcbPh0_known (ch : Nat) (en : Bool) (ctx : BitVec 16) (f : Focus) :
    knownMicro (setcbPh0 ch en ctx f.known) = knownMicro (setcbPh0 ch en ctx f) := by
  cases hi : f.c.initialized with
  | false =>
    rw [setcbPh0_notInitialized hi, setcbPh0_notInitialized (f := f.known) hi]
    exact f.known_agrees.answer ..
  | true =>
    rw [setcbPh0_registers hi, setcbPh0_registers (f := f.known) hi]
    refine Focus.Agrees.answer ?_ ..
    exact ⟨{ f.c.known_agrees with cbEn := rfl, cbCtx := fun _ => rfl }, rfl⟩

theorem enqueuePh0_known (ch : Nat) (bs : List Byte) (f : Focus) :
    knownMicro (enqueuePh0 ch bs f.known) = knownMicro (enqueuePh0 ch bs f) := by
  cases hi : f.c.initialized with
  | false =>
    rw [enqueuePh0_notInitialized hi, enqueuePh0_notInitialized (f := f.known) hi]
    exact f.known_agrees.answer ..
  | true =>
    cases hw : f.c.wqAttached with
    | false =>
      rw [enqueuePh0_notAttached hi hw, enqueuePh0_notAttached (f := f.known) hi hw]
      exact f.known_agrees.answer ..
    | true =>
      by_cases hk : (f.c.wq.push bs).1 = 0
      · rw [enqueuePh0_accepts_none hi hw hk, enqueuePh0_accepts_none (f := f.known) hi hw hk]
        exact f.known_agrees.answer ..
      · rw [enqueuePh0_push hi hw hk, enqueuePh0_push (f := f.known) hi hw hk]
        refine Focus.Agrees.knownMicro_eq ?_ _
        exact ⟨{ f.c.known_agrees with wq := rfl }, rfl⟩

theorem armPh0_known (ch timeout : Nat) (f : Focus) :
    knownMicro (armPh0 ch timeout f.known) = knownMicro (armPh0 ch timeout f) := by
  cases hi : f.c.initialized with
  | false =>
    rw [armPh0_notInitialized hi, armPh0_notInitialized (f := f.known) hi]
    exact f.known_agrees.answer ..
  | true =>
    cases hr : f.c.rqAttached with
    | false =>
      rw [armPh0_notAttached hi hr, armPh0_notAttached (f := f.known) hi hr]
      exact f.known_agrees.answer ..
    | true =>
      cases hs : f.c.readState with
      | armed =>
        rw [armPh0_alreadyActive hi hr hs, armPh0_alreadyActive (f := f.known) hi hr hs]
        exact f.known_agrees.answer ..
      | idle =>
        have hslot := f.c.known_agrees.rtRegistered
        cases hreg : f.c.rt.registered with
        | true => rw [armPh0_badSlot hi hr hs hreg, armPh0_badSlot (f := f.known) hi hr hs (hslot.trans hreg)]
        | false =>
          rw [armPh0_register hi hr hs hreg, armPh0_register (f := f.known) hi hr hs (hslot.trans hreg)]
          refine Focus.Agrees.knownMicro_eq ?_ _
          exact ⟨{ f.c.known_agrees with readTimeout := fun _ => rfl, rtRegistered := rfl, rt := fun _ => rfl }, rfl⟩

theorem cancelPh0_known (ch : Nat) (f : Focus) : knownMicro (cancelPh0 ch f.known) = knownMicro (cancelPh0 ch f) := by
  cases hs : f.c.readState with
  | idle =>
    rw [cancelPh0_ok.2 (.inl ⟨hs, rfl, rfl⟩), (cancelPh0_ok (f := f.known)).2 (.inl ⟨hs, rfl, rfl⟩)]
    exact f.known_agrees.answer ..
  | armed =>
    rw [cancelPh0_ok.2 (.inr ⟨hs, rfl, rfl⟩), (cancelPh0_ok (f := f.known)).2 (.inr ⟨hs, rfl, rfl⟩)]
    refine Focus.Agrees.knownMicro_eq ?_ _
    exact ⟨{ f.c.known_agrees with readState := rfl }, rfl⟩

theorem drainPh0_known (ch max : Nat) (f : Focus) :
    knownMicro (drainPh0 ch max f.known) = knownMicro (drainPh0 ch max f) := by
  cases hs : f.c.readState with
  | idle =>
    rw [drainPh0_ok.2 ⟨rfl, .inl ⟨hs, rfl⟩⟩, (drainPh0_ok (f := f.known)).2 ⟨rfl, .inl ⟨hs, rfl⟩⟩]
    exact f.known_agrees.answer ..
  | armed =>
    rw [drainPh0_ok.2 ⟨rfl, .inr ⟨hs, rfl⟩⟩, (drainPh0_ok (f := f.known)).2 ⟨rfl, .inr ⟨hs, rfl⟩⟩]
    refine Focus.Agrees.answer (f := ⟨_, _⟩) (f' := ⟨_, _⟩) ?_ ..
    exact ⟨{ f.c.known_agrees with rq := rfl }, rfl⟩

theorem taskwPh0_known (f : Focus) : knownMicro (taskwPh0 f.known) = knownMicro (taskwPh0 f) := by
  refine Focus.Agrees.knownMicro_eq ?_ _
  exact ⟨{ f.c.known_agrees with writeState := rfl }, rfl⟩

/-- The stored timeout is read only from a slot that is registered. -/
theorem taskrPh0_known (f : Focus) : knownMicro (taskrPh0 f.known) = knownMicro (taskrPh0 f) := by
  have hslot := f.c.known_agrees.rtRegistered
  cases hreg : f.c.rt.registered with
  | false => rw [taskrPh0_error.2 ⟨hreg, rfl⟩, (taskrPh0_error (f := f.known)).2 ⟨hslot.trans hreg, rfl⟩]
  | true =>
    have htimeout := f.c.known_agrees.readTimeout hreg
    rw [taskrPh0_ok.2 ⟨rfl, hreg, rfl⟩, (taskrPh0_ok (f := f.known)).2 ⟨rfl, hslot.trans hreg, rfl⟩]
    refine Focus.Agrees.knownMicro_eq ?_ _
    exact ⟨{ f.c.known_agrees with
      readTimeout := fun _ => htimeout, rtRegistered := rfl
      rt := fun _ => congrArg (fun d => Slot.mk true (.ticks (f.g.now + d))) htimeout }, rfl⟩

/-! ### The micro-steps that follow -/

/-- `lp` is read of an initialised channel only. -/
theorem enqueuePh1_known {f : Focus} (hi : f.c.initialized = true) (k n : Nat) :
    knownMicro (enqueuePh1 k n f.known) = knownMicro (enqueuePh1 k n f) := by
  have hslot := f.c.known_agrees.wtRegistered
  by_cases hbad : f.c.wt.registered = (f.c.writeState == .idle)
  · rw [enqueuePh1_error.2 ⟨rfl, hbad⟩, (enqueuePh1_error (f := f.known)).2 ⟨rfl, hslot.trans hbad⟩]
  · cases hw : f.c.writeState with
    | idle =>
      have hreg : f.c.wt.registered = false := by simpa [hw] using hbad
      rw [enqueuePh1_ok.2 ⟨rfl, .inl ⟨hw, hreg, rfl⟩⟩,
        (enqueuePh1_ok (f := f.known)).2 ⟨rfl, .inl ⟨hw, hslot.trans hreg, rfl⟩⟩]
      refine Focus.Agrees.knownMicro_eq ?_ _
      refine ⟨{ f.c.known_agrees with writeState := rfl, wtRegistered := rfl, wt := fun _ => rfl }, ?_⟩
      have hlp : f.known.c.lp = f.c.lp := f.c.known_agrees.lp hi
      rw [hlp, Shared.acquireWrite_eq, Shared.acquireWrite_eq]
      rfl
    | draining =>
      have hreg : f.c.wt.registered = true := by simpa [hw, WriteState.beq_eq_decide] using hbad
      rw [enqueuePh1_ok.2 ⟨rfl, .inr ⟨hw, hreg, rfl⟩⟩,
        (enqueuePh1_ok (f := f.known)).2 ⟨rfl, .inr ⟨hw, hslot.trans hreg, rfl⟩⟩]
      refine Focus.Agrees.knownMicro_eq ?_ _
      exact ⟨{ f.c.known_agrees with wtRegistered := rfl, wt := fun _ => rfl }, rfl⟩

/-- Unregistration leaves a due-time that is unspecified (60_exceptions.md R227). -/
theorem taskwPh1_known {f : Focus} (hi : f.c.initialized = true) (ch : Nat) :
    knownMicro (taskwPh1 ch f.known) = knownMicro (taskwPh1 ch f) := by
  have hslot := f.c.known_agrees.wtRegistered
  have hlp : f.known.c.lp = f.c.lp := f.c.known_agrees.lp hi
  cases hreg : f.c.wt.registered with
  | false =>
    rw [taskwPh1_error_iff.2 (.inl ⟨hreg, rfl⟩),
      (taskwPh1_error_iff (f := f.known)).2 (.inl ⟨hslot.trans hreg, rfl⟩)]
  | true =>
    have hheld' : (if f.known.c.lp then f.known.g.dsCount else f.known.g.hfCount) =
        if f.c.lp then f.g.dsCount else f.g.hfCount := by rw [hlp]; rfl
    by_cases hheld : (if f.c.lp then f.g.dsCount else f.g.hfCount) = 0
    · rw [taskwPh1_error_iff.2 (.inr ⟨hreg, hheld, rfl⟩),
        (taskwPh1_error_iff (f := f.known)).2 (.inr ⟨hslot.trans hreg, hheld'.trans hheld, rfl⟩)]
    · rw [taskwPh1_eq hreg hheld, taskwPh1_eq (f := f.known) (hslot.trans hreg) (hheld' ▸ hheld)]
      refine Focus.Agrees.knownMicro_eq ?_ _
      refine ⟨{ f.c.known_agrees with wtRegistered := rfl, wt := nofun }, ?_⟩
      rw [hlp, f.known_agrees.c.event_eq]
      rfl

theorem cancelPh2_known (ch : Nat) (f : Focus) : knownMicro (cancelPh2 ch f.known) = knownMicro (cancelPh2 ch f) := by
  have hslot := f.c.known_agrees.rtRegistered
  by_cases hheld : f.g.hfCount = 0
  · rw [cancelPh2_error_iff.2 (.inl ⟨hheld, rfl⟩), (cancelPh2_error_iff (f := f.known)).2 (.inl ⟨hheld, rfl⟩)]
  · cases hreg : f.c.rt.registered with
    | false =>
      rw [cancelPh2_error_iff.2 (.inr ⟨hheld, hreg, rfl⟩),
        (cancelPh2_error_iff (f := f.known)).2 (.inr ⟨hheld, hslot.trans hreg, rfl⟩)]
    | true =>
      rw [cancelPh2_ok.2 ⟨rfl, hheld, hreg, rfl⟩,
        (cancelPh2_ok (f := f.known)).2 ⟨rfl, hheld, hslot.trans hreg, rfl⟩]
      refine Focus.Agrees.knownMicro_eq ?_ _
      exact ⟨{ f.c.known_agrees with readTimeout := nofun, rtRegistered := rfl, rt := nofun }, rfl⟩

/-- The other micro-steps touch specified values only. -/
theorem runMicro_known {f : Focus} (hi : f.c.initialized = true) (q : Pending) (ch : Nat) :
    knownMicro (runMicro q ch f.known) = knownMicro (runMicro q ch f) := by
  cases q with
  | enqueuePh1 k n => exact enqueuePh1_known hi k n
  | enqueuePh2 k n =>
    refine Focus.Agrees.answer ?_ ..
    exact ⟨{ f.c.known_agrees with ier := rfl }, rfl⟩
  | armPh1 | cancelPh1 =>
    refine Focus.Agrees.knownMicro_eq ?_ _
    exact ⟨{ f.c.known_agrees with ier := rfl }, rfl⟩
  | armPh2 =>
    refine Focus.Agrees.answer ?_ ..
    exact ⟨{ f.c.known_agrees with readState := rfl }, rfl⟩
  | cancelPh2 => exact cancelPh2_known ch f
  | taskwPh1 => exact taskwPh1_known hi ch
  | taskrPh1 => exact (f.known_agrees_report ch _).knownMicro_eq none

/-! ### The steps outside cooperative context -/

/-- What of the answer of a step outside cooperative context is specified. -/
def knownSole (m : Except FaultReason Focus) : Except FaultReason Focus := m.map Focus.known

theorem Focus.Agrees.knownSole_eq {f f' : Focus} (h : f.Agrees f') : knownSole (.ok f) = knownSole (.ok f') :=
  congrArg Except.ok h.known_eq

/-- An initialised channel's flags and queue decide the transmit side. -/
theorem Channel.Agrees.transmit {c d : Channel} (h : c.Agrees d) (hi : d.initialized = true) (now : Nat) :
    (transmitOutcome now c).Agrees (transmitOutcome now d) := by
  unfold transmitOutcome
  rw [h.ier, h.isr hi, h.wq]
  split
  · split
    · exact { h with
        ier := rfl, isr := fun _ => rfl, tdr := fun _ _ => rfl, wq := rfl
        txlog := congrArg (· ++ _) h.txlog }
    · split
      · exact { h with ier := rfl, isr := fun _ => rfl, wq := rfl, wt := fun hreg => by rw [h.wt hreg] }
      · exact { h with ier := rfl, isr := fun _ => rfl, wq := rfl }
  · split
    · exact { h with ier := rfl, isr := fun _ => rfl, wq := rfl, wt := fun hreg => by rw [h.wt hreg] }
    · exact h

/-- RDR is read only where RXNE says that it holds a byte. -/
theorem Channel.Agrees.receive {c d : Channel} (h : c.Agrees d) (hi : d.initialized = true) (now : Nat) :
    (receiveOutcome now c).Agrees (receiveOutcome now d) := by
  unfold receiveOutcome
  rw [h.ier, h.isr hi, h.rq]
  split
  next hq =>
    have hrdr : c.rdr = d.rdr := h.rdr hi (Bool.and_eq_true_iff.1 hq).2
    rw [hrdr]
    split <;>
      exact { h with ier := rfl, isr := fun _ => rfl, rdr := nofun, rq := rfl, rt := fun hreg => by rw [h.rt hreg] }
  next => exact h

theorem Channel.Agrees.interruptSlotBad_iff {c d : Channel} (h : c.Agrees d) (hi : d.initialized = true) :
    interruptSlotBad c ↔ interruptSlotBad d := by
  unfold interruptSlotBad transmitWakes Channel.rxneRequest
  rw [h.ier, h.isr hi, h.wq, h.wtRegistered, h.rtRegistered]

theorem transmitOutcome_initialized (now : Nat) (c : Channel) :
    (transmitOutcome now c).initialized = c.initialized := by
  obtain ⟨_, _, _, _, _, _, e⟩ := transmitOutcome_frame now c
  rw [e]

/-- With every source disabled the request line is low (10_state.md R35). -/
theorem Channel.irqLine_of_disabled {c : Channel} (h : c.ier = ⟨false, false, false⟩) : c.irqLine = false := by
  rw [Channel.irqLine, Channel.txeRequest, Channel.tcRequest, Channel.rxneRequest, h]
  rfl

/-- Before bring-up the flags are unspecified, and no source is enabled that would read them. -/
theorem multiplexer_known {f : Focus} (hquiet : f.c.initialized = false → f.c.ier = ⟨false, false, false⟩) :
    knownSole (multiplexer f.known) = knownSole (multiplexer f) := by
  cases hi : f.c.initialized with
  | false =>
    have hlow := Channel.irqLine_of_disabled (hquiet hi)
    have hlow' : f.known.c.irqLine = false := Channel.irqLine_of_disabled (hquiet hi)
    rw [multiplexer_spurious hlow, multiplexer_spurious hlow']
    exact f.known_agrees.knownSole_eq
  | true =>
    have hiff := f.c.known_agrees.interruptSlotBad_iff hi
    obtain ⟨hbad, e⟩ | ⟨hgood, e⟩ := multiplexer_cases f
    · rw [e, multiplexer_error_iff.2 ⟨hiff.2 hbad, rfl⟩]
    · obtain ⟨hbad, -⟩ | ⟨-, e'⟩ := multiplexer_cases f.known
      · exact absurd (hiff.1 hbad) hgood
      · rw [e, e']
        refine Focus.Agrees.knownSole_eq ⟨?_, rfl⟩
        refine (f.c.known_agrees.transmit hi _).receive ?_ _
        exact (transmitOutcome_initialized _ _).trans hi

/-- Before bring-up HWLOAD is not enabled whatever TXE is (30_encoding.md R118, NE5). -/
theorem loadable_known (c : Channel) :
    (c.known.initialized && !c.known.isr.txe && !c.known.tsrBusy) = (c.initialized && !c.isr.txe && !c.tsrBusy) := by
  cases hi : c.initialized with
  | false => rw [c.known_agrees.initialized, hi]; rfl
  | true => rw [c.known_agrees.isr hi, c.known_agrees.initialized, hi]; rfl

/-- HWLOAD finds in TDR the byte that waits, and leaves none there. -/
theorem loadShift_known {c : Channel} (hi : c.initialized = true) (htxe : c.isr.txe = false) :
    c.known.loadShift.Agrees c.loadShift :=
  { c.known_agrees with
    isr := fun _ => congrArg (fun r : Isr => { r with txe := true }) (c.known_agrees.isr hi)
    tdr := nofun, tsrBusy := rfl, tsr := fun _ => c.known_agrees.tdr hi htxe }

/-- HWDONE finds the byte in the shift stage, and leaves none there. -/
theorem finishShift_known {c : Channel} (hi : c.initialized = true) (hbusy : c.tsrBusy = true) :
    c.known.finishShift.Agrees c.finishShift := by
  have hisr := c.known_agrees.isr hi
  exact { c.known_agrees with
    isr := fun _ => congrArg (fun r : Isr => { r with tc := r.tc || r.txe }) hisr
    tsrBusy := rfl, tsr := nofun
    linelog := congrArg (fun b => c.linelog ++ [b]) (c.known_agrees.tsr hbusy) }

/-- HWRX finds RXNE specified, and RDR holds the byte after it or is left alone. -/
theorem receive_known {c : Channel} (hi : c.initialized = true) (b : Byte) :
    (c.known.receive b).Agrees (c.receive b) := by
  have hisr := c.known_agrees.isr hi
  cases hr : c.isr.rxne with
  | true =>
    rw [c.receive_overrun b hr, c.known.receive_overrun b (by rw [hisr, hr])]
    exact c.known_agrees
  | false =>
    rw [c.receive_free b hr, c.known.receive_free b (by rw [hisr, hr]), hisr]
    exact { c.known_agrees with isr := fun _ => rfl, rdr := fun _ _ => rfl }

/-! ### Guards and commits -/

theorem State.known_chans_map_known (s : State) : s.known.chans.map Channel.known = s.known.chans := by
  rw [State.known, List.map_map]
  exact List.map_congr_left fun c _ => c.known_known

theorem State.known_known (s : State) : s.known.known = s.known := by
  rw [State.known, State.known_chans_map_known]
  rfl

theorem State.known_chans (s : State) (ch : Nat) : s.known.chans[ch]? = s.chans[ch]?.map Channel.known :=
  List.getElem?_map

theorem State.known_put (s : State) (ch : Nat) (f : Focus) : (s.put ch f).known = s.known.put ch f.known := by
  rw [State.known, State.put_chans, List.map_set]
  rfl

/-- What of a commit is specified is the commit of what of the answer is specified. -/
theorem State.finishMicro_knownResult (s : State) (ch : Nat) (m : MicroResult) :
    knownResult (s.finishMicro ch m) = s.known.finishMicro ch (knownMicro m) := by
  cases m with
  | error r => rfl
  | ok x =>
    obtain ⟨f, p⟩ := x
    exact congrArg (fun t : State => Host.Outcome.next { t with coop := p.map fun q => ⟨ch, q⟩ }) (s.known_put ch f)

theorem State.finishStep_knownResult (s : State) (ch : Nat) (m : Except FaultReason Focus) :
    knownResult (s.finishStep ch m) = s.known.finishStep ch (knownSole m) := by
  cases m with
  | error r => rfl
  | ok f => exact congrArg Host.Outcome.next (s.known_put ch f)

theorem State.finishMicro_known {s : State} {ch : Nat} {m m' : MicroResult} (h : knownMicro m' = knownMicro m) :
    knownResult (s.known.finishMicro ch m') = knownResult (s.finishMicro ch m) := by
  rw [State.finishMicro_knownResult, State.finishMicro_knownResult, State.known_known, h]

theorem State.finishStep_known {s : State} {ch : Nat} {m m' : Except FaultReason Focus}
    (h : knownSole m' = knownSole m) : knownResult (s.known.finishStep ch m') = knownResult (s.finishStep ch m) := by
  rw [State.finishStep_knownResult, State.finishStep_knownResult, State.known_known, h]

theorem State.startOperation_known {s : State} {ch : Nat} {m m' : MicroResult} (h : knownMicro m' = knownMicro m) :
    knownResult (s.known.startOperation ch true m') = knownResult (s.startOperation ch true m) := by
  rw [State.startOperation_preempt, State.startOperation_preempt]
  exact State.finishMicro_known h

theorem State.unfaulted_known {s : State} {x y : Result} (h : knownResult x = knownResult y) :
    knownResult (s.known.unfaulted x) = knownResult (s.unfaulted y) := by
  have hfault : s.known.fault = s.fault := rfl
  unfold State.unfaulted
  rw [hfault]
  cases s.fault with
  | some r => rfl
  | none => exact h

theorem State.onChannel_known {s : State} {ch : Nat} {k k' : Focus → Result}
    (h : ∀ c, s.chans[ch]? = some c → knownResult (k' (Focus.known ⟨c, s.shared⟩)) = knownResult (k ⟨c, s.shared⟩)) :
    knownResult (s.known.onChannel ch k') = knownResult (s.onChannel ch k) := by
  unfold State.onChannel
  rw [State.known_chans]
  cases hc : s.chans[ch]? with
  | none => rfl
  | some c => exact h c hc

theorem State.independent_known {s : State} {ch : Nat} {k k' : Focus → Result}
    (h : ∀ c, s.chans[ch]? = some c → knownResult (k' (Focus.known ⟨c, s.shared⟩)) = knownResult (k ⟨c, s.shared⟩)) :
    knownResult (s.known.independent ch k') = knownResult (s.independent ch k) :=
  State.unfaulted_known (State.onChannel_known h)

theorem State.cooperative_known {s : State} {ch : Nat} {k k' : Focus → Result}
    (h : ∀ c, s.chans[ch]? = some c → knownResult (k' (Focus.known ⟨c, s.shared⟩)) = knownResult (k ⟨c, s.shared⟩)) :
    knownResult (s.known.cooperative ch k') = knownResult (s.cooperative ch k) := by
  have hcoop : s.known.coop = s.coop := rfl
  refine State.unfaulted_known ?_
  rw [hcoop]
  cases s.coop with
  | some co => rfl
  | none => exact State.onChannel_known h

theorem requires_known {cond cond' : Bool} {why : NotEnabled} {x y : Result} (hcond : cond' = cond)
    (h : cond = true → knownResult x = knownResult y) :
    knownResult (requires cond' why x) = knownResult (requires cond why y) := by
  rw [hcond]
  cases cond with
  | false => rfl
  | true => exact h rfl

/-- A task's condition reads a due-time only where it has a meaning (10_state.md R45). -/
theorem Slot.ready_congr {sl sl' : Slot} (hreg : sl.registered = sl'.registered) (h : sl'.registered = true → sl = sl')
    (now : Nat) : sl.ready now = sl'.ready now := by
  cases hr : sl'.registered with
  | false => rw [Slot.ready, Slot.ready, hreg, hr, Bool.false_and, Bool.false_and]
  | true => rw [h hr]

/-! ### What the invariant says of bring-up -/

/-- The channel of the operation in flight is initialised. -/
def State.PendingUp (s : State) : Prop := ∀ co c, s.coop = some co → s.chans[co.ch]? = some c → c.initialized = true

theorem SoundChannel.up_of_registered_wt {p : Option Pending} {c : Channel} (h : SoundChannel p c)
    (hreg : c.wt.registered = true) : c.initialized = true :=
  (h.writeNeeds (.inl (h.wtHeld.symm.trans hreg))).1

theorem SoundChannel.up_of_registered_rt {p : Option Pending} {c : Channel} (h : SoundChannel p c)
    (hreg : c.rt.registered = true) : c.initialized = true :=
  (h.readNeeds (Bool.or_eq_true_iff.1 (h.rtHeld.symm.trans hreg))).1

theorem SoundChannel.up_of_armed {p : Option Pending} {c : Channel} (h : SoundChannel p c)
    (harmed : c.readState = .armed) : c.initialized = true :=
  (h.readNeeds (.inl (by rw [readHeld, harmed]; rfl))).1

theorem SoundChannel.up_of_pending {q : Pending} {c : Channel} (h : SoundChannel (some q) c) :
    c.initialized = true := by
  cases q with
  | enqueuePh1 | enqueuePh2 => exact (h.writeNeeds (.inr rfl)).1
  | armPh1 | armPh2 => exact (h.readNeeds (.inr rfl)).1
  | cancelPh1 | cancelPh2 => exact (h.readNeeds (.inl (Bool.or_true _))).1
  | taskwPh1 => exact (h.writeNeeds (.inl (Bool.or_true _))).1
  | taskrPh1 => exact h.up_of_armed (h.taskrWindowArmed rfl)

theorem Sound.pendingUp {s : State} (hs : Sound s) : s.PendingUp := by
  intro co c hco hc
  have h := hs.channels co.ch c hc
  rw [State.pendingOn, hco] at h
  simp only [if_true] at h
  exact h.up_of_pending

/-- An operation goes on past its `ph0` on an initialised channel only. -/
theorem firstMicro_up {i : Instr} {p : Option Pending} {f f' : Focus} {q : Pending} (hs : SoundChannel p f.c)
    (h : firstMicro i f = some (.ok (f', some q))) : f'.c.initialized = true := by
  cases i with
  | init ch lp => obtain ⟨-, -, ⟨⟩⟩ := initPh0_ok.1 (Option.some.inj h)
  | attach ch w r => obtain ⟨⟨⟩, -⟩ := attachPh0_ok (Option.some.inj h)
  | setcb ch en ctx => obtain ⟨⟨⟩, -⟩ := setcbPh0_ok (Option.some.inj h)
  | drain ch max => obtain ⟨⟨⟩, -⟩ := drainPh0_ok.1 (Option.some.inj h)
  | enqueue ch p bs =>
    obtain ⟨⟨⟨⟩, -⟩, -⟩ | ⟨hi, -, -, rfl, -⟩ := enqueuePh0_ok (Option.some.inj h)
    exact hi
  | arm ch p timeout =>
    obtain ⟨⟨⟩, -⟩ | ⟨hi, -, -, -, rfl, -⟩ := armPh0_ok (Option.some.inj h)
    exact hi
  | cancel ch p =>
    obtain ⟨-, -, ⟨⟩⟩ | ⟨harmed, rfl, -⟩ := cancelPh0_ok.1 (Option.some.inj h)
    exact hs.up_of_armed harmed
  | taskw ch p =>
    obtain ⟨hready, h⟩ := Option.ite_none_right_eq_some.1 h
    cases h
    exact hs.up_of_registered_wt (Slot.ready_iff.1 hready).1
  | taskr ch p =>
    obtain ⟨-, h⟩ := Option.ite_none_right_eq_some.1 h
    obtain ⟨-, hreg, rfl⟩ := taskrPh0_ok.1 (Option.some.inj h)
    exact hs.up_of_registered_rt hreg
  | irq | hwload | hwdone | hwrx | tick | costep => cases h

theorem runMicro_keeps_initialized {q : Pending} {ch : Nat} {f f' : Focus} {p : Option Pending}
    (h : runMicro q ch f = .ok (f', p)) : f'.c.initialized = f.c.initialized := by
  cases q with
  | enqueuePh1 k n => obtain ⟨-, ⟨-, -, rfl⟩ | ⟨-, -, rfl⟩⟩ := enqueuePh1_ok.1 h <;> rfl
  | enqueuePh2 k n | armPh2 => obtain ⟨rfl, -⟩ := Focus.answer_ok.1 h; rfl
  | armPh1 | cancelPh1 => cases h; rfl
  | cancelPh2 => obtain ⟨-, -, -, rfl⟩ := cancelPh2_ok.1 h; rfl
  | taskwPh1 => obtain ⟨-, -, hc, -⟩ := taskwPh1_ok h; rw [hc]
  | taskrPh1 => cases h; rw [Focus.report_c]

/-- A commit that leaves an operation in flight, if any, on an initialised channel. -/
theorem State.pendingUp_put {s : State} {ch : Nat} {f : Focus} {p : Option Pending} (hch : ch < s.chans.length)
    (h : ∀ q, p = some q → f.c.initialized = true) :
    ({ s.put ch f with coop := p.map fun q => ⟨ch, q⟩ } : State).PendingUp := by
  intro co c hco hc
  obtain ⟨q, hq, rfl⟩ := Option.map_eq_some_iff.1 hco
  obtain rfl : f.c = c := Option.some.inj ((State.put_same s ch f hch).symm.trans hc)
  exact h q hq

theorem State.runPending_pendingUp {s t : State} (hs : s.PendingUp) (h : s.runPending = .next t) : t.PendingUp := by
  obtain ⟨ch, q, c, f, p, hco, hc, hm, rfl⟩ := State.runPending_next.1 h
  exact State.pendingUp_put (List.getElem?_eq_some_iff.1 hc).1 fun _ _ =>
    (runMicro_keeps_initialized hm).trans (hs ⟨ch, q⟩ c hco hc)

theorem exec_costep_pendingUp {s t : State} (hs : s.PendingUp) (h : exec .costep s = .next t) : t.PendingUp :=
  State.runPending_pendingUp hs (State.unfaulted_next.1 h).2

/-- An instruction with a P bit starts with its `ph0`, after which it goes on, if at all, on an initialised channel. -/
theorem exec_preemptible_pendingUp {i : Instr} (hp : i.preemptible ≠ i) {s t : State} (hs : Sound s)
    (h : exec i.preemptible s = .next t) : t.PendingUp := by
  obtain ⟨-, ⟨ch, c, f, p, -, -, hc, hm, rfl⟩ | ⟨ch, c, f, -, -, hm, -⟩ | ⟨rfl, -⟩ | ⟨dt, rfl, -⟩⟩ :=
    exec_preemptible_next h
  · exact State.pendingUp_put (List.getElem?_eq_some_iff.1 hc).1 fun q hq =>
      firstMicro_up (f := ⟨c, s.shared⟩) (hs.channels ch c hc) (hq ▸ hm)
  · cases i with
    | irq | hwload | hwdone | hwrx => exact absurd rfl hp
    | _ => cases hm
  · exact absurd rfl hp
  · exact absurd rfl hp

/-! ### The instructions -/

theorem State.runPending_known {s : State} (hs : s.PendingUp) :
    knownResult s.known.runPending = knownResult s.runPending := by
  have hcoop : s.known.coop = s.coop := rfl
  unfold State.runPending
  rw [hcoop]
  cases hco : s.coop with
  | none => rfl
  | some co =>
    exact State.onChannel_known fun c hc => State.finishMicro_known <|
      runMicro_known (f := ⟨c, s.shared⟩) (hs co c hco hc) co.next co.ch

theorem exec_costep_known {s : State} (hs : s.PendingUp) :
    knownResult (exec .costep s.known) = knownResult (exec .costep s) :=
  State.unfaulted_known (State.runPending_known hs)

theorem exec_preemptible_known {s : State} (hs : Sound s) (i : Instr) :
    knownResult (exec i.preemptible s.known) = knownResult (exec i.preemptible s) := by
  cases i with
  | init ch lp => exact State.cooperative_known fun _ _ => State.finishMicro_known (initPh0_known ..)
  | attach ch w r => exact State.cooperative_known fun _ _ => State.finishMicro_known (attachPh0_known ..)
  | setcb ch en ctx => exact State.cooperative_known fun _ _ => State.finishMicro_known (setcbPh0_known ..)
  | drain ch max => exact State.cooperative_known fun _ _ => State.finishMicro_known (drainPh0_known ..)
  | enqueue ch p bs => exact State.cooperative_known fun _ _ => State.startOperation_known (enqueuePh0_known ..)
  | arm ch p timeout => exact State.cooperative_known fun _ _ => State.startOperation_known (armPh0_known ..)
  | cancel ch p => exact State.cooperative_known fun _ _ => State.startOperation_known (cancelPh0_known ..)
  | taskw ch p =>
    refine State.cooperative_known fun c _ => requires_known ?_ fun _ => State.startOperation_known (taskwPh0_known _)
    exact Slot.ready_congr c.known_agrees.wtRegistered c.known_agrees.wt _
  | taskr ch p =>
    refine State.cooperative_known fun c _ => requires_known ?_ fun _ => State.startOperation_known (taskrPh0_known _)
    exact Slot.ready_congr c.known_agrees.rtRegistered c.known_agrees.rt _
  | irq ch =>
    exact State.independent_known fun c hc => State.finishStep_known <|
      multiplexer_known fun hi => ((hs.channels ch c hc).beforeBringUp hi).1
  | hwload ch =>
    refine State.independent_known fun c _ => requires_known (loadable_known c) fun hcond => State.finishStep_known ?_
    simp only [Bool.and_eq_true, Bool.not_eq_true'] at hcond
    obtain ⟨⟨hi, htxe⟩, -⟩ := hcond
    exact Focus.Agrees.knownSole_eq ⟨loadShift_known hi htxe, rfl⟩
  | hwdone ch =>
    refine State.independent_known fun c _ => requires_known rfl fun hcond => State.finishStep_known ?_
    obtain ⟨hi, hbusy⟩ := Bool.and_eq_true_iff.1 hcond
    exact Focus.Agrees.knownSole_eq ⟨finishShift_known hi hbusy, rfl⟩
  | hwrx ch b =>
    exact State.independent_known fun c _ => requires_known rfl fun hi => State.finishStep_known <|
      Focus.Agrees.knownSole_eq ⟨receive_known hi b, rfl⟩
  | tick dt =>
    refine State.unfaulted_known ?_
    exact congrArg (fun chans => Host.Outcome.next
      { s with chans := chans, shared := { s.shared with now := s.shared.now + dt, draws := 0 } })
      s.known_chans_map_known
  | costep => exact exec_costep_known hs.pendingUp

/-- Outcomes in which the same is specified stay so when each is followed by steps that keep this. -/
theorem andThen_known {x y : Result} {k : State → Result} (h : knownResult x = knownResult y)
    (hk : ∀ u v, x = .next u → y = .next v → u.known = v.known → knownResult (k u) = knownResult (k v)) :
    knownResult (andThen x k) = knownResult (andThen y k) := by
  cases x with
  | next u =>
    cases y with
    | next v => exact hk u v rfl rfl (Host.Outcome.next.inj h)
    | fault r => cases r; cases h
    | refused r => cases h
  | fault r =>
    cases y with
    | next v => cases r; cases h
    | fault r' => exact h
    | refused r' => cases r; cases h
  | refused r =>
    cases y with
    | next v => cases h
    | fault r' => cases r'; cases h
    | refused r' => exact h

theorem costepsToEnd_known (n : Nat) {s t : State} (hs : s.PendingUp) (ht : t.PendingUp) (h : s.known = t.known) :
    knownResult (costepsToEnd n s) = knownResult (costepsToEnd n t) := by
  induction n generalizing s t with
  | zero => exact congrArg Host.Outcome.next h
  | succ n ih =>
    have hcoop : s.coop = t.coop := (congrArg State.coop h :)
    have hstep : knownResult (exec .costep s) = knownResult (exec .costep t) := by
      rw [← exec_costep_known hs, ← exec_costep_known ht, h]
    rw [costepsToEnd, costepsToEnd, hcoop]
    cases t.coop with
    | none => exact congrArg Host.Outcome.next h
    | some co =>
      exact andThen_known hstep fun u v hu hv => ih (exec_costep_pendingUp hs hu) (exec_costep_pendingUp ht hv)

/-- Settles O60: the indivisible part of the instruction from each state, then the COSTEPs that end it. -/
theorem outcomesIgnoreUnspecifiedValues : Obligations.OutcomesIgnoreUnspecifiedValues := by
  intro i s t hs ht h
  have hfirst : knownResult (exec i.preemptible s) = knownResult (exec i.preemptible t) := by
    rw [← exec_preemptible_known hs, ← exec_preemptible_known ht, h]
  by_cases hp : i.preemptible = i
  · rwa [hp] at hfirst
  · rw [exec_whole hp, exec_whole hp]
    exact andThen_known hfirst fun u v hu hv =>
      costepsToEnd_known 2 (exec_preemptible_pendingUp hp hs hu) (exec_preemptible_pendingUp hp ht hv)

end Sys2Proof.Machine

/-!
O53: the hazard (70_reset_and_hazards.md R251).

The window is closed by a micro-step that sets TXEIE and does not re-arm. So a task that an interrupt has woken in it is
still due when the operation has ended, and completes a write whose bytes are queued.
-/

namespace Sys2Proof.Machine

/-- A step outside cooperative context leaves the operation in flight. -/
theorem InFlight.put {s : State} {ch : Nat} {c : Channel} {q : Pending} (h : InFlight s ch c q) (f : Focus) :
    InFlight (s.put ch f) ch f.c q := by
  obtain ⟨hf, hco, hc⟩ := h
  exact ⟨hf, hco, State.put_same s ch f (List.getElem?_eq_some_iff.1 hc).1⟩

/-- After its last micro-step the next operation may start. -/
theorem InFlight.ended {s : State} {ch : Nat} {c : Channel} {q : Pending} (h : InFlight s ch c q) (f : Focus) :
    Ready { s.put ch f with coop := none } ch f.c := by
  obtain ⟨hf, -, hc⟩ := h
  exact ⟨hf, rfl, State.put_same s ch f (List.getElem?_eq_some_iff.1 hc).1⟩

/-- An interrupt in the window that finds TC set wakes the task, whatever is received beside it, and leaves the queue
(43_interrupt_mux.md R172). -/
theorem exec_irq_wakes {s : State} {ch : Nat} {c : Channel} (hlive : Live s ch c) (htxeie : c.ier.txeie = false)
    (htcie : c.ier.tcie = true) (htc : c.isr.tc = true) (hwt : c.wt.registered = true)
    (hrt : c.ier.rxneie = true → c.isr.rxne = true → c.rt.registered = true) : ∃ isr rq due,
    exec (.irq ch) s = .next (s.put ch ⟨{ c with
      ier := { c.ier with tcie := false }
      wt := { c.wt with due := .ticks s.shared.now }
      isr := isr, rq := rq, rt := { c.rt with due := due } }, s.shared⟩) := by
  have hgood : ¬interruptSlotBad c := by
    rintro (⟨-, hunreg⟩ | ⟨hq, hunreg⟩)
    · exact Bool.false_ne_true (hunreg.symm.trans hwt)
    · obtain ⟨henabled, hpending⟩ := Bool.and_eq_true_iff.1 hq
      exact Bool.false_ne_true (hunreg.symm.trans (hrt henabled hpending))
  have htransmit : transmitOutcome s.shared.now c =
      { c with ier := { c.ier with tcie := false }, wt := { c.wt with due := .ticks s.shared.now } } := by
    simp only [transmitOutcome, htxeie, htcie, htc, Bool.false_and, Bool.true_and, Bool.false_eq_true,
      if_false, if_true]
  obtain ⟨isr, rq, due, hreceive⟩ := receiveOutcome_frame s.shared.now (transmitOutcome s.shared.now c)
  refine ⟨isr, rq, due, exec_irq_next.2 ⟨c, hlive, hgood, ?_⟩⟩
  rw [irqOutcome, hreceive, htransmit]

/-- ENQUEUE's last micro-step does not re-arm: a task that is due before it completes the write after it
(41_async_write.md R140, R141). -/
theorem taskw_after_enqueuePh2 {s : State} {ch k n : Nat} {c : Channel} (h : InFlight s ch c (.enqueuePh2 k n))
    (hwt : c.wt.registered = true) (hdue : c.wt.due.reached s.shared.now = true)
    (hheld : (if c.lp then s.shared.dsCount else s.shared.hfCount) ≠ 0) :
    ∃ u v d, exec .costep s = .next u ∧ exec (.taskw ch false) u = .next v ∧
      v.chans[ch]? = some { c with
        ier := { c.ier with txeie := true }, writeState := .idle, wt := ⟨false, d⟩ } ∧
      v.shared.events = s.shared.events ++ (if c.cbEn then [⟨ch, .writeDone, c.cbCtx⟩] else []) ∧
      v.shared.pglog = s.shared.pglog ++ [if c.lp then .alwDs else .disHf] := by
  obtain ⟨-, -, hph2⟩ := costepRunsEnqueue s ch k n c
  have hready := h.ended ⟨{ c with ier := { c.ier with txeie := true } }, { s.shared with
    resp := s.shared.resp ++ [⟨.enqueue, ch, if k = n then .ok else .queueFull, k, []⟩] }⟩
  obtain ⟨d, draws, htaskw⟩ := taskwCompletesTheWrite _ ch _ hready hwt hdue hheld
  obtain ⟨-, -, hc⟩ := hready.put ⟨{ c with
    ier := { c.ier with txeie := true }, writeState := .idle, wt := ⟨false, d⟩ }, s.shared⟩
  exact ⟨_, _, d, hph2 h, htaskw, hc, rfl, rfl⟩

/-- Settles O53: IRQ wakes the task in the window, and COSTEP and TASKW follow. -/
theorem hazardCompletesTheWriteEarly : Obligations.HazardCompletesTheWriteEarly := by
  intro s ch k n c hwindow htxeie htcie htc hwt hrt _ hcb hheld
  have ⟨hf, _, hc⟩ := hwindow
  obtain ⟨isr, rq, due, hirq⟩ := exec_irq_wakes ⟨hf, hc⟩ htxeie htcie htc hwt hrt
  have hflight := hwindow.put ⟨{ c with
    ier := { c.ier with tcie := false }
    wt := { c.wt with due := .ticks s.shared.now }
    isr := isr, rq := rq, rt := { c.rt with due := due } }, s.shared⟩
  obtain ⟨u, v, d, hcostep, htaskw, hv, hevents, hpglog⟩ :=
    taskw_after_enqueuePh2 hflight hwt (decide_eq_true (Nat.le_refl s.shared.now)) hheld
  refine ⟨_, u, v, _, hirq, hcostep, htaskw, hv, rfl, rfl, rfl, rfl, rfl, ?_, hpglog⟩
  rw [hevents, if_pos hcb]
  rfl

end Sys2Proof.Machine

/-!
O46: a machine that has stopped takes no step (70_reset_and_hazards.md R244).
-/

namespace Sys2Proof.Machine

/-- Settles O46: NE8 comes first in every meaning, and the fetch does not touch the field. -/
theorem faultedMachineTakesNoStep : Obligations.FaultedMachineTakesNoStep := by
  intro s r hr
  have hf : s.fault ≠ none := hr ▸ Option.some_ne_none r
  refine ⟨fun i => exec_faulted hf i, fun t h => ?_⟩
  obtain ⟨i, u, hu, h⟩ := step_next.1 h
  obtain ⟨rest, rfl⟩ := State.fetch_ok hu
  cases (exec_faulted (s := { s with stream := rest }) hf i).symm.trans h

end Sys2Proof.Machine

/-!
What a step commits, said once for the invariants and the frame: the channel it replaces, and the micro-step pending on it.
-/

namespace Sys2Proof.Machine

/-! ### Commits -/

/-- `t` is `s` with the focus `f` committed on channel `ch`, which was `c` before, and the micro-step `p` pending on it. -/
structure Commits (s : State) (ch : Nat) (c : Channel) (f : Focus) (p : Option Pending) (t : State) : Prop where
  found : s.chans[ch]? = some c
  chans : t.chans = s.chans.set ch f.c
  shared : t.shared = f.g
  stream : t.stream = s.stream
  fault : t.fault = s.fault
  pending : t.pendingOn ch = p
  pendingOther : ∀ ch', ch' ≠ ch → t.pendingOn ch' = s.pendingOn ch'
  coop : ∀ co, t.coop = some co → co.ch = ch ∨ s.coop = some co

section
variable {s t : State} {ch : Nat} {c : Channel} {f : Focus} {p : Option Pending}

theorem Commits.nch (h : Commits s ch c f p t) : t.nch = s.nch := by
  rw [State.nch, h.chans, List.length_set, State.nch]

theorem Commits.same (h : Commits s ch c f p t) : t.chans[ch]? = some f.c := by
  rw [h.chans, List.getElem?_set_self (List.getElem?_eq_some_iff.1 h.found).1]

theorem Commits.other (h : Commits s ch c f p t) {ch' : Nat} (hne : ch' ≠ ch) : t.chans[ch']? = s.chans[ch']? := by
  rw [h.chans, List.getElem?_set_ne hne.symm]

theorem State.pendingOn_of_coop_none (hco : s.coop = none) (ch : Nat) : s.pendingOn ch = none := by
  rw [State.pendingOn, hco]

theorem State.pendingOn_of_ne {co : Coop} (hco : s.coop = some co) (hne : ch ≠ co.ch) : s.pendingOn ch = none := by
  rw [State.pendingOn, hco]
  exact if_neg hne.symm

/-- A micro-step commits when no operation is in flight on another channel. -/
theorem State.midway_commits (hc : s.chans[ch]? = some c) (hco : ∀ co, s.coop = some co → co.ch = ch) (f : Focus)
    (p : Option Pending) : Commits s ch c f p (s.midway ch f p) where
  found := hc
  chans := rfl
  shared := rfl
  stream := rfl
  fault := rfl
  pending := by cases p <;> simp [State.midway, State.pendingOn]
  pendingOther ch' hne := by
    have hs : s.pendingOn ch' = none := by
      cases h : s.coop with
      | none => exact State.pendingOn_of_coop_none h ch'
      | some co => exact State.pendingOn_of_ne h (hco co h ▸ hne)
    rw [hs]
    cases p with
    | none => exact State.pendingOn_of_coop_none rfl ch'
    | some q => exact State.pendingOn_of_ne (co := ⟨ch, q⟩) rfl hne
  coop co h := by
    obtain ⟨q, -, rfl⟩ := Option.map_eq_some_iff.1 h
    exact .inl rfl

/-- A step outside cooperative context commits its focus and leaves the operation in flight (60_exceptions.md R216). -/
theorem State.put_commits (hc : s.chans[ch]? = some c) (f : Focus) : Commits s ch c f (s.pendingOn ch) (s.put ch f) where
  found := hc
  chans := rfl
  shared := rfl
  stream := rfl
  fault := rfl
  pending := rfl
  pendingOther _ _ := rfl
  coop _ h := .inr h

end

/-- COSTEP commits the micro-step that is pending (44_environment.md R185). -/
theorem State.runPending_commits {s t : State} (h : s.runPending = .next t) :
    ∃ ch q c f p, s.coop = some ⟨ch, q⟩ ∧ Commits s ch c f p t ∧ runMicro q ch ⟨c, s.shared⟩ = .ok (f, p) := by
  obtain ⟨ch, q, c, f, p, hco, hc, hm, rfl⟩ := State.runPending_next.1 h
  refine ⟨ch, q, c, f, p, hco, State.midway_commits hc (fun co e => ?_) f p, hm⟩
  obtain rfl : ⟨ch, q⟩ = co := Option.some.inj (hco.symm.trans e)
  rfl

theorem State.pendingOn_of_coop {s : State} {ch : Nat} {q : Pending} (h : s.coop = some ⟨ch, q⟩) :
    s.pendingOn ch = some q := by
  rw [State.pendingOn, h]
  exact if_pos rfl

/-- What an indivisible instruction that names channel `ch` does there: the `ph0` of a cooperative operation, none being in
flight, or a step outside cooperative context. -/
inductive IndivisibleStep (i : Instr) (s : State) (ch : Nat) (c : Channel) (f : Focus) : Option Pending → Prop where
  | first {p : Option Pending} (hco : s.coop = none) (hm : firstMicro i ⟨c, s.shared⟩ = some (.ok (f, p))) :
      IndivisibleStep i s ch c f p
  | sole (hm : soleStep i ⟨c, s.shared⟩ = some (.ok f)) : IndivisibleStep i s ch c f (s.pendingOn ch)

/-- An indivisible instruction commits one step on the channel it names, or is COSTEP or TICK. -/
theorem exec_preemptible_commits {i : Instr} {s t : State} (h : exec i.preemptible s = .next t) :
    (∃ ch c f p, i.channel? = some ch ∧ Commits s ch c f p t ∧ IndivisibleStep i s ch c f p) ∨
      (i = .costep ∧ s.runPending = .next t) ∨
      ∃ dt, i = .tick dt ∧ t = { s with shared := { s.shared with now := s.shared.now + dt } } := by
  obtain ⟨-, ⟨ch, c, f, p, hco, hi, hc, hm, rfl⟩ | ⟨ch, c, f, hi, hc, hm, rfl⟩ | hstep | htick⟩ :=
    exec_preemptible_next h
  · exact .inl ⟨ch, c, f, p, hi, State.midway_commits hc (by simp [hco]) f p, .first hco hm⟩
  · exact .inl ⟨ch, c, f, _, hi, State.put_commits hc f, .sole hm⟩
  · exact .inr (.inl hstep)
  · exact .inr (.inr htick)

end Sys2Proof.Machine

/-!
O48, O49, O50, O51: the invariants of 10_state.md R30 hold at reset, and every step keeps them.

A step on one channel is judged by that channel alone: `SoundStep` says that it leaves the channel sound and moves each
power-gate counter by as much as the channel's share of it.
-/

namespace Sys2Proof.Machine

/-! ### The shares of a counter (10_state.md R30, I-c) -/

/-- Replacing one channel changes a sum of shares by the change of that channel's share. -/
theorem sum_mapIdx_set {chans : List Channel} {share share' : Nat → Channel → Nat} {ch : Nat} {c d : Channel}
    (hc : chans[ch]? = some c) (hother : ∀ k, k ≠ ch → share' k = share k) :
    ((chans.set ch d).mapIdx share').sum + share ch c = (chans.mapIdx share).sum + share' ch d := by
  induction chans generalizing ch share share' with
  | nil => cases hc
  | cons x xs ih =>
    cases ch with
    | zero =>
      obtain rfl : x = c := Option.some.inj hc
      have htail : (fun i => share' (i + 1)) = fun i => share (i + 1) :=
        funext fun i => hother (i + 1) (Nat.succ_ne_zero i)
      simp only [List.set_cons_zero, List.mapIdx_cons, List.sum_cons, htail]
      omega
    | succ ch =>
      have htail := ih (share := fun i => share (i + 1)) (share' := fun i => share' (i + 1)) hc
        fun k hk => hother (k + 1) (hk ∘ Nat.succ.inj)
      simp only [List.set_cons_succ, List.mapIdx_cons, List.sum_cons, hother 0 (Nat.succ_ne_zero ch).symm]
      omega

/-- Both counters move by as much as the channel's shares of them. -/
structure Balanced (p : Option Pending) (f : Focus) (p' : Option Pending) (f' : Focus) : Prop where
  hf : f'.g.hfCount + hfShare p f.c = f.g.hfCount + hfShare p' f'.c
  ds : f'.g.dsCount + dsShare p f.c = f.g.dsCount + dsShare p' f'.c

/-- A step that holds what it held and counts nothing. -/
theorem Balanced.of_eq {p p' : Option Pending} {f f' : Focus} (hw : writeHeld p' f'.c = writeHeld p f.c)
    (hr : readHeld p' f'.c = readHeld p f.c) (hlp : f'.c.lp = f.c.lp) (hhf : f'.g.hfCount = f.g.hfCount)
    (hds : f'.g.dsCount = f.g.dsCount) : Balanced p f p' f' :=
  ⟨by rw [hfShare, hfShare, hw, hr, hlp, hhf], by rw [dsShare, dsShare, hw, hlp, hds]⟩

/-- A step that holds nothing before and after it. -/
theorem Balanced.of_free {p p' : Option Pending} {f f' : Focus} (h : writeHeld p f.c = false ∧ readHeld p f.c = false)
    (h' : writeHeld p' f'.c = false ∧ readHeld p' f'.c = false) (hhf : f'.g.hfCount = f.g.hfCount)
    (hds : f'.g.dsCount = f.g.dsCount) : Balanced p f p' f' :=
  ⟨by simp only [hfShare, h, h', hhf]; rfl, by simp only [dsShare, h, h', hds]; rfl⟩

/-- A step that takes or gives back only what the read path holds. -/
theorem Balanced.of_read {p p' : Option Pending} {f f' : Focus} (hw : writeHeld p' f'.c = writeHeld p f.c)
    (hlp : f'.c.lp = f.c.lp)
    (hhf : f'.g.hfCount + (readHeld p f.c).toNat = f.g.hfCount + (readHeld p' f'.c).toNat)
    (hds : f'.g.dsCount = f.g.dsCount) : Balanced p f p' f' := by
  refine ⟨?_, by rw [dsShare, dsShare, hw, hlp, hds]⟩
  simp only [Bool.toNat, Bool.cond_eq_ite] at hhf
  rw [hfShare, hfShare, hw, hlp]
  omega

/-- A step on one channel that keeps it sound and the counters exact. -/
structure SoundStep (p : Option Pending) (f : Focus) (p' : Option Pending) (f' : Focus) : Prop where
  channel : SoundChannel p' f'.c
  balanced : Balanced p f p' f'

/-! ### What soundness says of one channel -/

section
variable {p : Option Pending} {c : Channel}

theorem SoundChannel.draining_of_registered (h : SoundChannel none c) (hreg : c.wt.registered = true) :
    c.writeState = .draining := by
  rw [h.wtHeld, writeHeld] at hreg
  simpa using hreg

theorem SoundChannel.armed_of_registered (h : SoundChannel none c) (hreg : c.rt.registered = true) :
    c.readState = .armed := by
  rw [h.rtHeld, readHeld] at hreg
  simpa [armPending, cancelPending] using hreg

theorem SoundChannel.registered_of_armed (h : SoundChannel p c) (harmed : c.readState = .armed) :
    c.rt.registered = true ∧ c.ier.rxneie = true := by
  rw [h.rtHeld, h.rxneieHeld, readHeld, harmed]
  exact ⟨rfl, rfl⟩

/-- Before bring-up neither path holds anything. -/
theorem SoundChannel.held_of_down (h : SoundChannel p c) (hdown : c.initialized = false) :
    writeHeld p c = false ∧ readHeld p c = false :=
  ⟨eq_false_of_ne_true fun hw => Bool.false_ne_true (hdown.symm.trans (h.writeNeeds (.inl hw)).1),
    eq_false_of_ne_true fun hr => Bool.false_ne_true (hdown.symm.trans (h.readNeeds (.inl hr)).1)⟩

/-- An enabled source is one of an initialised channel. -/
theorem SoundChannel.up_of_enabled (h : SoundChannel p c)
    (he : c.ier.txeie = true ∨ c.ier.tcie = true ∨ c.ier.rxneie = true) : c.initialized = true := by
  refine eq_true_of_ne_false fun hdown => ?_
  rw [(h.beforeBringUp hdown).1] at he
  simp at he

end

/-! ### The first micro-steps -/

section
variable {ch : Nat} {f f' : Focus} {p : Option Pending}

/-- A response alone changes nothing that the invariant speaks of. -/
theorem SoundStep.respond (h : SoundChannel p f.c) (op : Op) (st : Status) (val : Nat) (payload : List Byte) :
    SoundStep p f p ⟨f.c, f.g.respond op ch st val payload⟩ :=
  ⟨h, .of_eq rfl rfl rfl rfl rfl⟩

theorem initPh0_sound {lp : Bool} (h : SoundChannel none f.c) (hm : initPh0 ch lp f = .ok (f', p)) :
    SoundStep none f p f' := by
  obtain ⟨hdown, rfl, rfl⟩ := initPh0_ok.1 hm
  obtain ⟨hier, -, hlog⟩ := h.beforeBringUp hdown
  refine ⟨{ h with
    writeNeeds := fun hx => ⟨rfl, (h.writeNeeds hx).2⟩
    readNeeds := fun hx => ⟨rfl, (h.readNeeds hx).2⟩
    setupNeeds := fun _ => rfl
    beforeBringUp := nofun
    rxneieHeld := ?_
    tcExact := fun _ => rfl
    lineOrder := fun _ => ?_ }, .of_free (h.held_of_down hdown) (h.held_of_down hdown) rfl rfl⟩
  · exact (congrArg Ier.rxneie hier).symm.trans h.rxneieHeld
  · exact hlog.trans (by simp [Channel.idleTransceiver])

theorem attachPh0_sound {w r : Bool} (h : SoundChannel none f.c) (hm : attachPh0 ch w r f = .ok (f', p)) :
    SoundStep none f p f' := by
  obtain ⟨rfl, ⟨-, rfl⟩ | ⟨hi, hw, hr, rfl⟩⟩ := attachPh0_ok hm
  · exact .respond h _ _ _ _
  · exact ⟨{ h with
      writeNeeds := fun hx => absurd (hw.symm.trans (h.writeNeeds hx).2) Bool.false_ne_true
      readNeeds := fun hx => absurd (hr.symm.trans (h.readNeeds hx).2) Bool.false_ne_true
      setupNeeds := fun _ => hi }, .of_eq rfl rfl rfl rfl rfl⟩

theorem setcbPh0_sound {en : Bool} {ctx : BitVec 16} (h : SoundChannel none f.c)
    (hm : setcbPh0 ch en ctx f = .ok (f', p)) : SoundStep none f p f' := by
  obtain ⟨rfl, ⟨-, rfl⟩ | ⟨hi, rfl⟩⟩ := setcbPh0_ok hm
  · exact .respond h _ _ _ _
  · exact ⟨{ h with setupNeeds := fun _ => hi }, .of_eq rfl rfl rfl rfl rfl⟩

theorem enqueuePh0_sound {bs : List Byte} (h : SoundChannel none f.c) (hm : enqueuePh0 ch bs f = .ok (f', p)) :
    SoundStep none f p f' := by
  obtain ⟨⟨rfl, hc, st, hg⟩, -⟩ | ⟨hi, hw, -, rfl, rfl⟩ := enqueuePh0_ok hm
  · obtain rfl : f' = ⟨f.c, f.g.respond .enqueue ch st 0 []⟩ := by rw [← hc, ← hg]
    exact .respond h _ _ _ _
  · refine ⟨{ h with
      wqFits := ?_
      writeNeeds := fun _ => ⟨hi, hw⟩
      taskwWindowIdle := nofun
      taskrWindowArmed := nofun }, .of_eq rfl rfl rfl rfl rfl⟩
    have hfits := h.wqFits
    simp only [ByteQueue.push_data, ByteQueue.push_cap, List.length_append, List.length_take]
    omega

theorem armPh0_sound {timeout : Nat} (h : SoundChannel none f.c) (hm : armPh0 ch timeout f = .ok (f', p)) :
    SoundStep none f p f' := by
  obtain ⟨rfl, hc, st, hg⟩ | ⟨hi, hr, hidle, -, rfl, rfl⟩ := armPh0_ok hm
  · obtain rfl : f' = ⟨f.c, f.g.respond .arm ch st 0 []⟩ := by rw [← hc, ← hg]
    exact .respond h _ _ _ _
  · exact ⟨{ h with
      readNeeds := fun _ => ⟨hi, hr⟩
      rtHeld := (Bool.or_true _).symm
      readWindowIdle := fun _ => hidle
      taskwWindowIdle := nofun
      taskrWindowArmed := nofun }, .of_eq rfl rfl rfl rfl rfl⟩

theorem cancelPh0_sound (h : SoundChannel none f.c) (hm : cancelPh0 ch f = .ok (f', p)) : SoundStep none f p f' := by
  obtain ⟨-, rfl, rfl⟩ | ⟨harmed, rfl, rfl⟩ := cancelPh0_ok.1 hm
  · exact .respond h _ _ _ _
  · have hheld : readHeld none f.c = true := by rw [readHeld, harmed]; rfl
    obtain ⟨hreg, hrxneie⟩ := h.registered_of_armed harmed
    exact ⟨{ h with
      readNeeds := fun _ => h.readNeeds (.inl hheld)
      rtHeld := hreg
      rxneieHeld := hrxneie
      readWindowIdle := fun _ => rfl
      taskwWindowIdle := nofun
      taskrWindowArmed := nofun }, .of_eq rfl hheld.symm rfl rfl rfl⟩

theorem drainPh0_sound {max : Nat} (h : SoundChannel none f.c) (hm : drainPh0 ch max f = .ok (f', p)) :
    SoundStep none f p f' := by
  obtain ⟨rfl, ⟨-, rfl⟩ | ⟨-, rfl⟩⟩ := drainPh0_ok.1 hm
  · exact .respond h _ _ _ _
  · refine ⟨{ h with rqFits := ?_ }, .of_eq rfl rfl rfl rfl rfl⟩
    have hfits := h.rqFits
    simp only [ByteQueue.pop_data, ByteQueue.pop_cap, List.length_drop]
    omega

theorem taskwPh0_sound (h : SoundChannel none f.c) (hreg : f.c.wt.registered = true)
    (hm : taskwPh0 f = .ok (f', p)) : SoundStep none f p f' := by
  cases hm
  have hheld : writeHeld none f.c = true := h.wtHeld.symm.trans hreg
  exact ⟨{ h with
    writeNeeds := fun _ => h.writeNeeds (.inl hheld)
    wtHeld := hreg
    enqueueWindowDraining := fun hx => absurd hx Bool.false_ne_true
    taskwWindowIdle := fun _ => rfl
    taskrWindowArmed := nofun }, .of_eq hheld.symm rfl rfl rfl rfl⟩

theorem taskrPh0_sound (h : SoundChannel none f.c) (hm : taskrPh0 f = .ok (f', p)) : SoundStep none f p f' := by
  obtain ⟨rfl, hreg, rfl⟩ := taskrPh0_ok.1 hm
  exact ⟨{ h with
    rtHeld := hreg.symm.trans h.rtHeld
    taskwWindowIdle := nofun
    taskrWindowArmed := fun _ => h.armed_of_registered hreg }, .of_eq rfl rfl rfl rfl rfl⟩

theorem firstMicro_sound {i : Instr} (h : SoundChannel none f.c) (hm : firstMicro i f = some (.ok (f', p))) :
    SoundStep none f p f' := by
  cases i with
  | init ch lp => exact initPh0_sound h (Option.some.inj hm)
  | attach ch w r => exact attachPh0_sound h (Option.some.inj hm)
  | setcb ch en ctx => exact setcbPh0_sound h (Option.some.inj hm)
  | enqueue ch p bs => exact enqueuePh0_sound h (Option.some.inj hm)
  | arm ch p timeout => exact armPh0_sound h (Option.some.inj hm)
  | cancel ch p => exact cancelPh0_sound h (Option.some.inj hm)
  | drain ch max => exact drainPh0_sound h (Option.some.inj hm)
  | taskw ch p =>
    obtain ⟨hready, hm⟩ := Option.ite_none_right_eq_some.1 hm
    exact taskwPh0_sound h (Slot.ready_iff.1 hready).1 (Option.some.inj hm)
  | taskr ch p =>
    obtain ⟨-, hm⟩ := Option.ite_none_right_eq_some.1 hm
    exact taskrPh0_sound h (Option.some.inj hm)
  | irq | hwload | hwdone | hwrx | tick | costep => cases hm

/-! ### The micro-steps that follow -/

theorem Balanced.acquireWrite {p p' : Option Pending} {c' : Channel} (hw : writeHeld p f.c = false)
    (hw' : writeHeld p' c' = true) (hr : readHeld p' c' = readHeld p f.c) (hlp : c'.lp = f.c.lp) :
    Balanced p f p' ⟨c', f.g.acquireWrite f.c.lp⟩ := by
  cases h : f.c.lp with
  | true => exact ⟨by simp [hfShare, hr, hlp, h], by simp [dsShare, hw, hw', hlp, h]⟩
  | false =>
    refine ⟨?_, by simp [dsShare, hlp, h]⟩
    simp [hfShare, hw, hw', hr, hlp, h]
    omega

theorem enqueuePh1_sound {k n : Nat} (h : SoundChannel (some (.enqueuePh1 k n)) f.c)
    (hm : enqueuePh1 k n f = .ok (f', p)) : SoundStep (some (.enqueuePh1 k n)) f p f' := by
  obtain ⟨rfl, ⟨hidle, -, rfl⟩ | ⟨hdraining, -, rfl⟩⟩ := enqueuePh1_ok.1 hm
  · have hw : writeHeld (some (.enqueuePh1 k n)) f.c = false := by rw [writeHeld, hidle]; rfl
    exact ⟨{ h with
      writeNeeds := fun _ => h.writeNeeds (.inr rfl)
      wtHeld := rfl
      enqueueWindowDraining := fun _ => rfl
      taskwWindowIdle := nofun
      taskrWindowArmed := nofun }, .acquireWrite hw rfl rfl rfl⟩
  · have hw : writeHeld (some (.enqueuePh1 k n)) f.c = true := by rw [writeHeld, hdraining]; rfl
    exact ⟨{ h with
      wtHeld := hw.symm
      enqueueWindowDraining := fun _ => hdraining
      taskwWindowIdle := nofun
      taskrWindowArmed := nofun }, .of_eq rfl rfl rfl rfl rfl⟩

theorem enqueuePh2_sound {k n : Nat} (h : SoundChannel (some (.enqueuePh2 k n)) f.c)
    (hm : enqueuePh2 ch k n f = .ok (f', p)) : SoundStep (some (.enqueuePh2 k n)) f p f' := by
  obtain ⟨rfl, rfl⟩ := Focus.answer_ok.1 hm
  obtain ⟨hi, -⟩ := h.writeNeeds (.inr rfl)
  exact ⟨{ h with
    writeNeeds := fun _ => h.writeNeeds (.inr rfl)
    beforeBringUp := fun hdown => absurd (hdown.symm.trans hi) Bool.false_ne_true
    enqueueWindowDraining := fun hx => absurd hx Bool.false_ne_true
    taskwWindowIdle := nofun
    taskrWindowArmed := nofun }, .of_eq rfl rfl rfl rfl rfl⟩

theorem armPh1_sound (h : SoundChannel (some .armPh1) f.c) (hm : armPh1 f = .ok (f', p)) :
    SoundStep (some .armPh1) f p f' := by
  cases hm
  obtain ⟨hi, -⟩ := h.readNeeds (.inr rfl)
  exact ⟨{ h with
    beforeBringUp := fun hdown => absurd (hdown.symm.trans hi) Bool.false_ne_true
    rxneieHeld := by simp [Pending.beq_eq_decide]
    taskwWindowIdle := nofun
    taskrWindowArmed := nofun }, .of_eq rfl rfl rfl rfl rfl⟩

theorem armPh2_sound (h : SoundChannel (some .armPh2) f.c) (hm : armPh2 ch f = .ok (f', p)) :
    SoundStep (some .armPh2) f p f' := by
  obtain ⟨rfl, rfl⟩ := Focus.answer_ok.1 hm
  have hr : readHeld (some .armPh2) f.c = false := by rw [readHeld, h.readWindowIdle (.inl rfl)]; rfl
  refine ⟨{ h with
    readNeeds := fun _ => h.readNeeds (.inr rfl)
    rtHeld := h.rtHeld.trans (Bool.or_true _)
    rxneieHeld := h.rxneieHeld.trans (by simp)
    readWindowIdle := fun hx => absurd hx (by decide)
    taskwWindowIdle := nofun
    taskrWindowArmed := nofun }, .of_read rfl rfl ?_ rfl⟩
  rw [hr]
  rfl

theorem cancelPh1_sound (h : SoundChannel (some .cancelPh1) f.c) (hm : cancelPh1 f = .ok (f', p)) :
    SoundStep (some .cancelPh1) f p f' := by
  cases hm
  have hheld : readHeld (some .cancelPh1) f.c = true := Bool.or_true _
  obtain ⟨hi, -⟩ := h.readNeeds (.inl hheld)
  exact ⟨{ h with
    beforeBringUp := fun hdown => absurd (hdown.symm.trans hi) Bool.false_ne_true
    rxneieHeld := by simp [h.readWindowIdle (.inr rfl)]
    taskwWindowIdle := nofun
    taskrWindowArmed := nofun }, .of_eq rfl rfl rfl rfl rfl⟩

theorem cancelPh2_sound (h : SoundChannel (some .cancelPh2) f.c) (hm : cancelPh2 ch f = .ok (f', p)) :
    SoundStep (some .cancelPh2) f p f' := by
  obtain ⟨rfl, hcount, -, rfl⟩ := cancelPh2_ok.1 hm
  have hidle := h.readWindowIdle (.inr rfl)
  have hheld : readHeld (some .cancelPh2) f.c = true := Bool.or_true _
  have hfree : readHeld none f.c = false := by rw [readHeld, hidle]; rfl
  refine ⟨{ h with
    readNeeds := fun _ => h.readNeeds (.inl hheld)
    rtHeld := ((Bool.or_false _).trans hfree).symm
    rxneieHeld := h.rxneieHeld.trans (by rw [hidle]; rfl)
    readWindowIdle := fun hx => absurd hx (by decide)
    taskwWindowIdle := nofun
    taskrWindowArmed := nofun }, .of_read rfl rfl ?_ rfl⟩
  rw [hheld]
  exact (Nat.sub_one_add_one hcount).trans (congrArg (f.g.hfCount + Bool.toNat ·) hfree.symm)

theorem Balanced.releaseWrite {p p' : Option Pending} {c' : Channel} {g g' : Shared}
    (hg : f.g.releaseWrite f.c.lp = .ok g) (hw : writeHeld p f.c = true) (hw' : writeHeld p' c' = false)
    (hr : readHeld p' c' = readHeld p f.c) (hhf : g'.hfCount = g.hfCount) (hds : g'.dsCount = g.dsCount) :
    Balanced p f p' ⟨c', g'⟩ := by
  cases h : f.c.lp with
  | true =>
    rw [h] at hg
    obtain ⟨hcount, rfl⟩ := Shared.allowDs_ok.1 hg
    constructor <;> simp [hfShare, dsShare, hw, hw', hr, h, hhf, hds]
    omega
  | false =>
    rw [h] at hg
    obtain ⟨hcount, rfl⟩ := Shared.disableHf_ok.1 hg
    constructor <;> simp [hfShare, dsShare, hw, hw', hr, h, hhf, hds]
    omega

theorem taskwPh1_sound (h : SoundChannel (some .taskwPh1) f.c) (hm : taskwPh1 ch f = .ok (f', p)) :
    SoundStep (some .taskwPh1) f p f' := by
  obtain ⟨rfl, -, hc, g, hg, hg'⟩ := taskwPh1_ok hm
  have hidle := h.taskwWindowIdle rfl
  have hheld : writeHeld (some .taskwPh1) f.c = true := Bool.or_true _
  have hfree : writeHeld none f.c = false := by rw [writeHeld, hidle]; rfl
  obtain ⟨c', g'⟩ := f'
  subst hc hg'
  exact ⟨{ h with
    writeNeeds := fun _ => h.writeNeeds (.inl hheld)
    wtHeld := hfree.symm
    taskwWindowIdle := nofun
    taskrWindowArmed := nofun }, .releaseWrite hg hheld hfree rfl rfl rfl⟩

theorem taskrPh1_sound (h : SoundChannel (some .taskrPh1) f.c) (hm : taskrPh1 ch f = .ok (f', p)) :
    SoundStep (some .taskrPh1) f p f' := by
  cases hm
  refine ⟨?_, ?_⟩
  · rw [Focus.report_c]
    exact { h with taskwWindowIdle := nofun, taskrWindowArmed := nofun }
  · constructor <;> rw [Focus.report_c, Focus.report_g] <;> rfl

theorem runMicro_sound {q : Pending} (h : SoundChannel (some q) f.c) (hm : runMicro q ch f = .ok (f', p)) :
    SoundStep (some q) f p f' := by
  cases q with
  | enqueuePh1 k n => exact enqueuePh1_sound h hm
  | enqueuePh2 k n => exact enqueuePh2_sound h hm
  | armPh1 => exact armPh1_sound h hm
  | armPh2 => exact armPh2_sound h hm
  | cancelPh1 => exact cancelPh1_sound h hm
  | cancelPh2 => exact cancelPh2_sound h hm
  | taskwPh1 => exact taskwPh1_sound h hm
  | taskrPh1 => exact taskrPh1_sound h hm

end

/-! ### The steps outside cooperative context -/

section
variable {p : Option Pending} {c : Channel}

/-- The transmit side of an invocation (44_environment.md R180, items 2 and 4). -/
theorem SoundChannel.transmitOutcome (h : SoundChannel p c) (now : Nat) :
    SoundChannel p (transmitOutcome now c) := by
  unfold Machine.transmitOutcome
  split
  next hq =>
    obtain ⟨htxeie, htxe⟩ := Bool.and_eq_true_iff.1 hq
    have hdown {q : Prop} (hd : c.initialized = false) : q :=
      absurd (hd.symm.trans (h.up_of_enabled (.inl htxeie))) Bool.false_ne_true
    split
    next b rest hdata =>
      exact { h with
        wqFits := by have := h.wqFits; rw [hdata, List.length_cons] at this; exact Nat.le_of_succ_le this
        beforeBringUp := hdown
        tcExact := fun _ => rfl
        lineOrder := fun hi => by simp [h.lineOrder hi, htxe] }
    next =>
      split
      · exact { h with beforeBringUp := hdown }
      · exact { h with beforeBringUp := hdown }
  next =>
    split
    next hq =>
      have hi := h.up_of_enabled (.inr (.inl (Bool.and_eq_true_iff.1 hq).1))
      exact { h with beforeBringUp := fun hd => absurd (hd.symm.trans hi) Bool.false_ne_true }
    next => exact h

theorem SoundChannel.receiveOutcome (h : SoundChannel p c) (now : Nat) : SoundChannel p (receiveOutcome now c) := by
  unfold Machine.receiveOutcome
  split
  next =>
    split
    next hroom => exact { h with rqFits := by rw [List.length_append]; exact hroom }
    next => exact { h with }
  next => exact h

theorem multiplexer_sound {f f' : Focus} (h : SoundChannel p f.c) (hm : multiplexer f = .ok f') :
    SoundStep p f p f' := by
  obtain ⟨-, e⟩ | ⟨-, e⟩ := multiplexer_cases f <;> rw [e] at hm <;> cases hm
  refine ⟨(h.transmitOutcome _).receiveOutcome _, ?_⟩
  obtain ⟨ier, isr, tdr, wq, rq, wdue, rdue, txlog, houtcome⟩ := irqOutcome_frame f.g.now f.c
  rw [houtcome]
  exact .of_eq rfl rfl rfl rfl rfl

theorem SoundChannel.loadShift (h : SoundChannel p c) (hi : c.initialized = true) (htxe : c.isr.txe = false)
    (hbusy : c.tsrBusy = false) : SoundChannel p c.loadShift :=
  { h with
    beforeBringUp := fun hd => absurd (hd.symm.trans hi) Bool.false_ne_true
    tcExact := fun _ => by simp [Channel.loadShift, h.tcExact hi, htxe]
    lineOrder := fun _ => by simp [Channel.loadShift, h.lineOrder hi, htxe, hbusy] }

theorem SoundChannel.finishShift (h : SoundChannel p c) (hi : c.initialized = true) (hbusy : c.tsrBusy = true) :
    SoundChannel p c.finishShift :=
  { h with
    beforeBringUp := fun hd => absurd (hd.symm.trans hi) Bool.false_ne_true
    tcExact := fun _ => by simp [Channel.finishShift, h.tcExact hi, hbusy]
    lineOrder := fun _ => by simp [Channel.finishShift, h.lineOrder hi, hbusy] }

theorem SoundChannel.receive (h : SoundChannel p c) (b : Byte) : SoundChannel p (c.receive b) := by
  unfold Channel.receive
  split
  · exact h
  · exact { h with }

theorem soleStep_sound {i : Instr} {f f' : Focus} (h : SoundChannel p f.c) (hm : soleStep i f = some (.ok f')) :
    SoundStep p f p f' := by
  cases i with
  | irq ch => exact multiplexer_sound h (Option.some.inj hm)
  | hwload ch =>
    obtain ⟨hq, hm⟩ := Option.ite_none_right_eq_some.1 hm
    cases hm
    simp only [Bool.and_eq_true, Bool.not_eq_true'] at hq
    obtain ⟨⟨hi, htxe⟩, hbusy⟩ := hq
    exact ⟨h.loadShift hi htxe hbusy, .of_eq rfl rfl rfl rfl rfl⟩
  | hwdone ch =>
    obtain ⟨hq, hm⟩ := Option.ite_none_right_eq_some.1 hm
    cases hm
    obtain ⟨hi, hbusy⟩ := Bool.and_eq_true_iff.1 hq
    exact ⟨h.finishShift hi hbusy, .of_eq rfl rfl rfl rfl rfl⟩
  | hwrx ch b =>
    obtain ⟨-, hm⟩ := Option.ite_none_right_eq_some.1 hm
    cases hm
    exact ⟨h.receive b, .of_eq (by simp [writeHeld]) (by simp [readHeld]) (Channel.receive_lp _ b) rfl rfl⟩
  | init | attach | setcb | enqueue | arm | cancel | drain | taskw | taskr | tick | costep => cases hm

end

/-! ### The machine keeps `Sound` -/

section
variable {s t : State} {ch : Nat} {c : Channel} {f : Focus} {p : Option Pending}

/-- What holds of every channel holds of every channel after a step, if it holds of the one committed. -/
theorem Commits.forall_channels {Q : Option Pending → Channel → Prop} (h : Commits s ch c f p t)
    (hs : ∀ ch c, s.chans[ch]? = some c → Q (s.pendingOn ch) c) (hq : Q p f.c) :
    ∀ ch c, t.chans[ch]? = some c → Q (t.pendingOn ch) c := by
  intro ch' d hd
  by_cases e : ch' = ch
  · subst e
    obtain rfl : f.c = d := Option.some.inj (h.same.symm.trans hd)
    rwa [h.pending]
  · rw [h.pendingOther ch' e]
    exact hs ch' d (h.other e ▸ hd)

/-- A counter that was exact stays so if it moves by the change of the channel's share. -/
theorem Commits.sum_shares {share : Option Pending → Channel → Nat} (h : Commits s ch c f p t) {n n' : Nat}
    (hn : n = (s.chans.mapIdx fun ch c => share (s.pendingOn ch) c).sum)
    (hmove : n' + share (s.pendingOn ch) c = n + share p f.c) :
    n' = (t.chans.mapIdx fun ch c => share (t.pendingOn ch) c).sum := by
  have hsum := sum_mapIdx_set (d := f.c) (share := fun ch c => share (s.pendingOn ch) c)
    (share' := fun ch c => share (t.pendingOn ch) c) h.found fun k hk => by rw [h.pendingOther k hk]
  rw [← h.chans, h.pending] at hsum
  omega

theorem Commits.sound (h : Commits s ch c f p t) (hs : Sound s)
    (hstep : SoundStep (s.pendingOn ch) ⟨c, s.shared⟩ p f) : Sound t where
  channels := h.forall_channels hs.channels hstep.channel
  coopChannel co hco := by
    rw [h.nch]
    obtain e | hco := h.coop co hco
    · exact e ▸ (List.getElem?_eq_some_iff.1 h.found).1
    · exact hs.coopChannel co hco
  hfExact := by
    rw [h.shared]
    exact h.sum_shares hs.hfExact hstep.balanced.hf
  dsExact := by
    rw [h.shared]
    exact h.sum_shares hs.dsExact hstep.balanced.ds

theorem IndivisibleStep.sound {i : Instr} (hc : SoundChannel (s.pendingOn ch) c) (h : IndivisibleStep i s ch c f p) :
    SoundStep (s.pendingOn ch) ⟨c, s.shared⟩ p f := by
  cases h with
  | first hco hm =>
    rw [State.pendingOn_of_coop_none hco] at hc ⊢
    exact firstMicro_sound hc hm
  | sole hm => exact soleStep_sound hc hm

theorem State.runPending_sound (h : s.runPending = .next t) (hs : Sound s) : Sound t := by
  obtain ⟨ch, q, c, f, p, hco, hcommit, hm⟩ := State.runPending_commits h
  have hc := hs.channels ch c hcommit.found
  refine hcommit.sound hs ?_
  rw [State.pendingOn_of_coop hco] at hc ⊢
  exact runMicro_sound hc hm

theorem exec_preemptible_sound {i : Instr} (h : exec i.preemptible s = .next t) (hs : Sound s) : Sound t := by
  obtain ⟨ch, c, f, p, -, hcommit, hstep⟩ | ⟨-, hr⟩ | ⟨dt, -, rfl⟩ := exec_preemptible_commits h
  · exact hcommit.sound hs (hstep.sound (hs.channels ch c hcommit.found))
  · exact State.runPending_sound hr hs
  · exact ⟨hs.channels, hs.coopChannel, hs.hfExact, hs.dsExact⟩

theorem exec_sound {i : Instr} (h : exec i s = .next t) (hs : Sound s) : Sound t :=
  exec_keeps h (fun _ => exec_preemptible_sound) (fun _ _ => State.runPending_sound) hs

end

theorem Sound.of_fetch {s u : State} {i : Instr} (hs : Sound s) (h : s.fetch = .ok (i, u)) : Sound u := by
  obtain ⟨rest, rfl⟩ := State.fetch_ok h
  exact ⟨hs.channels, hs.coopChannel, hs.hfExact, hs.dsExact⟩

/-- Settles O49: each indivisible step commits a sound one, and a whole operation is several of them. -/
theorem stepKeepsSound : Obligations.StepKeepsSound := by
  intro s t hs h
  obtain ⟨i, u, hf, hx⟩ := step_next.1 h
  exact exec_sound hx (hs.of_fetch hf)

/-! ### Steps of one channel that keep it orderly -/

/-- A step on one channel that keeps it orderly and takes no time. -/
structure OrderlyStep (f : Focus) (p' : Option Pending) (f' : Focus) : Prop where
  channel : OrderlyChannel f.g.now p' f'.c
  now : f'.g.now = f.g.now

section
variable {ch : Nat} {f f' : Focus} {p : Option Pending}

theorem enqueuePh0_orderly {bs : List Byte} (h : OrderlyChannel f.g.now none f.c)
    (hm : enqueuePh0 ch bs f = .ok (f', p)) : OrderlyStep f p f' := by
  obtain ⟨⟨rfl, hc, st, hg⟩, -⟩ | ⟨-, -, -, rfl, rfl⟩ := enqueuePh0_ok hm
  · exact ⟨hc ▸ h, by rw [hg]; rfl⟩
  · exact ⟨{ h with queueServed := fun _ => .inr rfl }, rfl⟩

theorem armPh0_orderly {timeout : Nat} (h : OrderlyChannel f.g.now none f.c)
    (hm : armPh0 ch timeout f = .ok (f', p)) : OrderlyStep f p f' := by
  obtain ⟨rfl, hc, st, hg⟩ | ⟨-, -, -, -, rfl, rfl⟩ := armPh0_ok hm
  · exact ⟨hc ▸ h, by rw [hg]; rfl⟩
  · exact ⟨{ h with }, rfl⟩

/-- TASKW starts on a channel whose task is due: both sources are off and the queue has been served. -/
theorem taskwPh0_orderly (h : OrderlyChannel f.g.now none f.c) (hready : f.c.wt.ready f.g.now = true)
    (hm : taskwPh0 f = .ok (f', p)) : OrderlyStep f p f' := by
  cases hm
  obtain ⟨htxeie, htcie⟩ := h.dueQuiet hready
  exact ⟨{ h with
    enabledDraining := by rintro (he | he) <;> simp [htxeie, htcie] at he
    drainingDriven := nofun }, rfl⟩

theorem firstMicro_orderly {i : Instr} (hs : SoundChannel none f.c) (h : OrderlyChannel f.g.now none f.c)
    (hm : firstMicro i f = some (.ok (f', p))) : OrderlyStep f p f' := by
  cases i with
  | init ch lp =>
    obtain ⟨hdown, rfl, rfl⟩ := initPh0_ok.1 (Option.some.inj hm)
    have hier := (hs.beforeBringUp hdown).1
    refine ⟨?_, rfl⟩
    have hsame : OrderlyChannel f.g.now none { f.c with ier := ⟨false, false, false⟩ } := by rwa [← hier]
    exact { hsame with }
  | attach ch w r =>
    obtain ⟨rfl, ⟨-, rfl⟩ | ⟨-, -, -, rfl⟩⟩ := attachPh0_ok (Option.some.inj hm) <;> exact ⟨{ h with }, rfl⟩
  | setcb ch en ctx =>
    obtain ⟨rfl, ⟨-, rfl⟩ | ⟨-, rfl⟩⟩ := setcbPh0_ok (Option.some.inj hm) <;> exact ⟨{ h with }, rfl⟩
  | enqueue ch p bs => exact enqueuePh0_orderly h (Option.some.inj hm)
  | arm ch p timeout => exact armPh0_orderly h (Option.some.inj hm)
  | cancel ch p =>
    obtain ⟨-, rfl, rfl⟩ | ⟨-, rfl, rfl⟩ := cancelPh0_ok.1 (Option.some.inj hm) <;> exact ⟨{ h with }, rfl⟩
  | drain ch max =>
    obtain ⟨rfl, ⟨-, rfl⟩ | ⟨-, rfl⟩⟩ := drainPh0_ok.1 (Option.some.inj hm) <;> exact ⟨{ h with }, rfl⟩
  | taskw ch p =>
    obtain ⟨hready, hm⟩ := Option.ite_none_right_eq_some.1 hm
    exact taskwPh0_orderly h hready (Option.some.inj hm)
  | taskr ch p =>
    obtain ⟨-, hm⟩ := Option.ite_none_right_eq_some.1 hm
    obtain ⟨rfl, -, rfl⟩ := taskrPh0_ok.1 (Option.some.inj hm)
    exact ⟨{ h with }, rfl⟩
  | irq | hwload | hwdone | hwrx | tick | costep => cases hm

/-- Both branches of ENQUEUE `ph1` leave a channel that is Draining with its task put off (70_reset_and_hazards.md R258). -/
theorem OrderlyChannel.rearmed {now k n : Nat} {c c' : Channel} (h : OrderlyChannel now (some (.enqueuePh1 k n)) c)
    (hc' : c' = { c with writeState := .draining, wt := ⟨true, .inf⟩ }) :
    OrderlyChannel now (some (.enqueuePh2 k n)) c' := by
  subst hc'
  exact { h with
    enabledDraining := fun _ => rfl
    drainingDriven := fun _ => .inr (.inr (.inr rfl))
    dueQuiet := nofun
    neverTimed := fun _ => .inl rfl
    windowRearmed := fun _ => rfl }

theorem enqueuePh1_orderly {k n : Nat} (h : OrderlyChannel f.g.now (some (.enqueuePh1 k n)) f.c)
    (hm : enqueuePh1 k n f = .ok (f', p)) : OrderlyStep f p f' := by
  obtain ⟨rfl, ⟨-, -, rfl⟩ | ⟨hdraining, -, rfl⟩⟩ := enqueuePh1_ok.1 hm
  · exact ⟨h.rearmed rfl, by cases f.c.lp <;> rfl⟩
  · exact ⟨h.rearmed (by rw [← hdraining]), rfl⟩

theorem enqueuePh2_orderly {k n : Nat} (hs : SoundChannel (some (.enqueuePh2 k n)) f.c)
    (h : OrderlyChannel f.g.now (some (.enqueuePh2 k n)) f.c) (hm : enqueuePh2 ch k n f = .ok (f', p)) :
    OrderlyStep f p f' := by
  obtain ⟨rfl, rfl⟩ := Focus.answer_ok.1 hm
  have hinf := h.windowRearmed rfl
  exact ⟨{ h with
    enabledDraining := fun _ => hs.enqueueWindowDraining rfl
    drainingDriven := fun _ => .inl rfl
    dueQuiet := fun hready => by simp [Slot.ready_iff, hinf] at hready
    queueServed := fun _ => .inl rfl
    windowRearmed := fun _ => hinf }, rfl⟩

theorem taskwPh1_orderly (hs : SoundChannel (some .taskwPh1) f.c) (h : OrderlyChannel f.g.now (some .taskwPh1) f.c)
    (hm : taskwPh1 ch f = .ok (f', p)) : OrderlyStep f p f' := by
  obtain ⟨rfl, -, hc, g, hg, hg'⟩ := taskwPh1_ok hm
  have hidle := hs.taskwWindowIdle rfl
  obtain ⟨c', g'⟩ := f'
  subst hc hg'
  refine ⟨{ h with
    drainingDriven := fun hdraining => absurd (hidle.symm.trans hdraining) nofun
    dueQuiet := nofun
    neverTimed := nofun
    windowRearmed := fun hx => absurd hx Bool.false_ne_true }, ?_⟩
  obtain ⟨-, rfl⟩ := Shared.releaseWrite_ok.1 hg
  rfl

theorem runMicro_orderly {q : Pending} (hs : SoundChannel (some q) f.c) (h : OrderlyChannel f.g.now (some q) f.c)
    (hm : runMicro q ch f = .ok (f', p)) : OrderlyStep f p f' := by
  cases q with
  | enqueuePh1 k n => exact enqueuePh1_orderly h hm
  | enqueuePh2 k n => exact enqueuePh2_orderly hs h hm
  | armPh1 | cancelPh1 => cases hm; exact ⟨{ h with }, rfl⟩
  | armPh2 => obtain ⟨rfl, rfl⟩ := Focus.answer_ok.1 hm; exact ⟨{ h with }, rfl⟩
  | cancelPh2 => obtain ⟨rfl, -, -, rfl⟩ := cancelPh2_ok.1 hm; exact ⟨{ h with }, rfl⟩
  | taskwPh1 => exact taskwPh1_orderly hs h hm
  | taskrPh1 =>
    cases hm
    exact ⟨by rw [Focus.report_c]; exact { h with }, by rw [Focus.report_g]⟩

end

/-! ### The multiplexer, outside the hazard -/

/-- The transmit side, where it does not wake the task inside the window of ENQUEUE (70_reset_and_hazards.md R251). -/
theorem OrderlyChannel.transmitOutcome {now : Nat} {p : Option Pending} {c : Channel} (hs : SoundChannel p c)
    (h : OrderlyChannel now p c) (hq : enqueueWindow p = true → transmitWakes c = false) :
    OrderlyChannel now p (transmitOutcome now c) := by
  have hdue : (Due.ticks now).reached now = true := decide_eq_true (Nat.le_refl now)
  unfold Machine.transmitOutcome
  unfold transmitWakes at hq
  split
  next htxe =>
    rw [if_pos htxe] at hq
    obtain ⟨htxeie, -⟩ := Bool.and_eq_true_iff.1 htxe
    have hdraining := h.enabledDraining (.inl htxeie)
    split
    next => exact { h with queueServed := fun _ => .inl htxeie }
    next hdata =>
      split
      next htc =>
        exact { h with
          enabledDraining := fun _ => hdraining
          drainingDriven := fun _ => .inr (.inr (.inl hdue))
          dueQuiet := fun _ => ⟨rfl, rfl⟩
          queueServed := fun hne => absurd hdata hne
          neverTimed := fun _ => .inr hdue
          windowRearmed := fun hw => absurd (hq hw) (by simp [hdata, htc]) }
      next =>
        exact { h with
          enabledDraining := fun _ => hdraining
          drainingDriven := fun _ => .inr (.inl rfl)
          dueQuiet := fun hready => absurd (htxeie.symm.trans (h.dueQuiet hready).1) nofun
          queueServed := fun hne => absurd hdata hne }
  next htxe =>
    rw [if_neg htxe] at hq
    split
    next htc =>
      obtain ⟨htcie, htcflag⟩ := Bool.and_eq_true_iff.1 htc
      have hflag : c.isr.txe = true := by
        have := hs.tcExact (hs.up_of_enabled (.inr (.inl htcie)))
        rw [htcflag] at this
        exact (Bool.and_eq_true_iff.1 this.symm).1
      have htxeie : c.ier.txeie = false := by simpa [hflag] using htxe
      exact { h with
        enabledDraining := fun _ => h.enabledDraining (.inr htcie)
        drainingDriven := fun _ => .inr (.inr (.inl hdue))
        dueQuiet := fun _ => ⟨htxeie, rfl⟩
        neverTimed := fun _ => .inr hdue
        windowRearmed := fun hw => absurd (htc.symm.trans (hq hw)) nofun }
    next => exact h

theorem multiplexer_orderly {f f' : Focus} {p : Option Pending} (hs : SoundChannel p f.c)
    (h : OrderlyChannel f.g.now p f.c) (hq : enqueueWindow p = true → transmitWakes f.c = false)
    (hm : multiplexer f = .ok f') : OrderlyStep f p f' := by
  obtain ⟨-, e⟩ | ⟨-, e⟩ := multiplexer_cases f <;> rw [e] at hm <;> cases hm
  have htransmit := h.transmitOutcome hs hq
  obtain ⟨isr, rq, due, hreceive⟩ := receiveOutcome_frame f.g.now (transmitOutcome f.g.now f.c)
  exact ⟨by rw [irqOutcome, hreceive]; exact { htransmit with }, rfl⟩

theorem soleStep_orderly {i : Instr} {f f' : Focus} {p : Option Pending} (hs : SoundChannel p f.c)
    (h : OrderlyChannel f.g.now p f.c) (hq : i.op = .irq → enqueueWindow p = true → transmitWakes f.c = false)
    (hm : soleStep i f = some (.ok f')) : OrderlyStep f p f' := by
  cases i with
  | irq ch => exact multiplexer_orderly hs h (hq rfl) (Option.some.inj hm)
  | hwload ch | hwdone ch =>
    obtain ⟨-, hm⟩ := Option.ite_none_right_eq_some.1 hm
    cases hm
    exact ⟨{ h with }, rfl⟩
  | hwrx ch b =>
    obtain ⟨-, hm⟩ := Option.ite_none_right_eq_some.1 hm
    cases hm
    refine ⟨?_, rfl⟩
    show OrderlyChannel f.g.now p (f.c.receive b)
    unfold Channel.receive
    split
    · exact h
    · exact { h with }
  | init | attach | setcb | enqueue | arm | cancel | drain | taskw | taskr | tick | costep => cases hm

/-- Time alone makes no completion task due (41_async_write.md R141). -/
theorem OrderlyChannel.later {now now' : Nat} {p : Option Pending} {c : Channel} (h : OrderlyChannel now p c)
    (hle : now ≤ now') : OrderlyChannel now' p c :=
  { h with
    drainingDriven := fun hd => (h.drainingDriven hd).imp_right <| .imp_right <| .imp_left <| Due.reached_mono hle
    dueQuiet := fun hready => by
      obtain ⟨hreg, hdue⟩ := Slot.ready_iff.1 hready
      obtain hinf | hreached := h.neverTimed hreg
      · simp [hinf] at hdue
      · exact h.dueQuiet (Slot.ready_iff.2 ⟨hreg, hreached⟩)
    neverTimed := fun hreg => (h.neverTimed hreg).imp_right (Due.reached_mono hle) }

/-! ### The machine keeps `Orderly` -/

section
variable {s t : State} {ch : Nat} {c : Channel} {f : Focus} {p : Option Pending}

theorem Commits.orderly (h : Commits s ch c f p t) (hs : Orderly s)
    (hsound : SoundStep (s.pendingOn ch) ⟨c, s.shared⟩ p f) (hstep : OrderlyStep ⟨c, s.shared⟩ p f) : Orderly t where
  sound := h.sound hs.sound hsound
  channels := by
    rw [h.shared, hstep.now]
    exact h.forall_channels hs.channels hstep.channel

/-- The hazard, in the terms of the outcome table (70_reset_and_hazards.md R251). -/
theorem not_wakes_of_not_hazard {i : Instr} (hq : ¬Hazard s i) (hi : i.channel? = some ch) (hc : s.chans[ch]? = some c)
    (hop : i.op = .irq) (hw : enqueueWindow (s.pendingOn ch) = true) : transmitWakes c = false := by
  cases i with
  | irq ch' =>
    obtain rfl : ch' = ch := Option.some.inj hi
    refine eq_false_of_ne_true fun hwakes => hq ?_
    unfold State.pendingOn at hw
    split at hw
    next co hco =>
      split at hw
      next e =>
        obtain ⟨ch, q⟩ := co
        subst e
        cases q with
        | enqueuePh2 k n => exact ⟨ch, c, k, n, rfl, hco, hc, (irqTransmitEmpty_tcRequest _).trans hwakes⟩
        | _ => cases hw
      next => cases hw
    next => cases hw
  | _ => cases hop

theorem IndivisibleStep.orderly {i : Instr} (hs : SoundChannel (s.pendingOn ch) c)
    (ho : OrderlyChannel s.shared.now (s.pendingOn ch) c)
    (hq : i.op = .irq → enqueueWindow (s.pendingOn ch) = true → transmitWakes c = false)
    (h : IndivisibleStep i s ch c f p) : OrderlyStep ⟨c, s.shared⟩ p f := by
  cases h with
  | first hco hm =>
    rw [State.pendingOn_of_coop_none hco] at hs ho
    exact firstMicro_orderly hs ho hm
  | sole hm => exact soleStep_orderly hs ho hq hm

theorem State.runPending_orderly (h : s.runPending = .next t) (hs : Orderly s) : Orderly t := by
  obtain ⟨ch, q, c, f, p, hco, hcommit, hm⟩ := State.runPending_commits h
  have hsound := hs.sound.channels ch c hcommit.found
  have horderly := hs.channels ch c hcommit.found
  have hpending := State.pendingOn_of_coop hco
  rw [hpending] at hsound horderly
  exact hcommit.orderly hs (hpending ▸ runMicro_sound hsound hm) (runMicro_orderly hsound horderly hm)

theorem exec_preemptible_orderly {i : Instr} (hq : ¬Hazard s i) (h : exec i.preemptible s = .next t)
    (hs : Orderly s) : Orderly t := by
  obtain ⟨ch, c, f, p, hi, hcommit, hstep⟩ | ⟨-, hr⟩ | ⟨dt, -, rfl⟩ := exec_preemptible_commits h
  · have hsound := hs.sound.channels ch c hcommit.found
    exact hcommit.orderly hs (hstep.sound hsound)
      (hstep.orderly hsound (hs.channels ch c hcommit.found) (not_wakes_of_not_hazard hq hi hcommit.found))
  · exact State.runPending_orderly hr hs
  · exact ⟨exec_preemptible_sound h hs.sound, fun ch c hc => (hs.channels ch c hc).later (Nat.le_add_right _ dt)⟩

theorem exec_orderly {i : Instr} (hq : ¬Hazard s i) (h : exec i s = .next t) (hs : Orderly s) : Orderly t :=
  exec_keeps h (fun _ => exec_preemptible_orderly hq) (fun _ _ => State.runPending_orderly) hs

end

/-- Settles O50: each indivisible step but the hazard's commits an orderly one, and the micro-steps that may follow are
never the hazard's. -/
theorem stepKeepsOrderly : Obligations.StepKeepsOrderly := by
  intro s t hs hq h
  obtain ⟨i, u, hf, hx⟩ := step_next.1 h
  refine exec_orderly (hq i u hf) hx ⟨hs.sound.of_fetch hf, ?_⟩
  obtain ⟨rest, rfl⟩ := State.fetch_ok hf
  exact hs.channels

/-! ### With no operation in flight (10_state.md R30) -/

section
variable {c : Channel}

theorem writeHeld_none : writeHeld none c = (c.writeState == .draining) := Bool.or_false _

theorem readHeld_none : readHeld none c = (c.readState == .armed) := Bool.or_false _

theorem sum_mapIdx_ite (q r : Channel → Bool) (chans : List Channel) :
    (chans.mapIdx fun _ c => (if q c then 1 else 0) + if r c then 1 else 0).sum = chans.countP q + chans.countP r := by
  induction chans with
  | nil => rfl
  | cons c cs ih =>
    rw [List.mapIdx_cons, List.sum_cons, ih, List.countP_cons, List.countP_cons]
    omega

/-- The shares of the high-frequency clock are one for each Armed read and one for each write that needs it. -/
theorem sum_hfShare_quiet {s : State} (hco : s.coop = none) :
    (s.chans.mapIdx fun ch c => hfShare (s.pendingOn ch) c).sum = s.chans.countP (fun c => c.readState == .armed) +
      s.chans.countP (fun c => c.writeState == .draining && !c.lp) := by
  simp only [State.pendingOn_of_coop_none hco, hfShare, readHeld_none, writeHeld_none]
  exact sum_mapIdx_ite _ _ _

theorem sum_dsShare_quiet {s : State} (hco : s.coop = none) :
    (s.chans.mapIdx fun ch c => dsShare (s.pendingOn ch) c).sum =
      s.chans.countP (fun c => c.writeState == .draining && c.lp) := by
  have hsum := sum_mapIdx_ite (fun _ => false) (fun c => c.writeState == .draining && c.lp) s.chans
  simpa [State.pendingOn_of_coop_none hco, dsShare, writeHeld_none] using hsum

end

/-! ### Reset (10_state.md R54) -/

section
variable {params : Params} {s : State}

theorem IsReset.coop_eq_none (h : IsReset params s) : s.coop = none := congrArg State.coop h

theorem IsReset.hfCount_eq_zero (h : IsReset params s) : s.shared.hfCount = 0 :=
  congrArg (fun t => t.shared.hfCount) h

theorem IsReset.dsCount_eq_zero (h : IsReset params s) : s.shared.dsCount = 0 :=
  congrArg (fun t => t.shared.dsCount) h

/-- Where anything is specified, a channel of a reset state is one of the reset machine. -/
theorem IsReset.channel (h : IsReset params s) {ch : Nat} {c : Channel} (hc : s.chans[ch]? = some c) :
    ∃ caps, c.known = (Channel.reset caps).known := by
  have hchan : (s.chans.map Channel.known)[ch]? = ((params.caps.map Channel.reset).map Channel.known)[ch]? :=
    congrArg (fun t => t.chans[ch]?) h
  rw [List.getElem?_map, hc, List.map_map, List.getElem?_map] at hchan
  obtain ⟨caps, -, hcaps⟩ := Option.map_eq_some_iff.1 hchan.symm
  exact ⟨caps, hcaps.symm⟩

end

section
variable {c : Channel} {caps : QueueCaps}

theorem Channel.held_of_reset (h : c.known = (Channel.reset caps).known) :
    writeHeld none c = false ∧ readHeld none c = false := by
  have hwrite : c.writeState = .idle := congrArg Channel.writeState h
  have hread : c.readState = .idle := congrArg Channel.readState h
  rw [writeHeld_none, readHeld_none, hwrite, hread]
  exact ⟨rfl, rfl⟩

theorem Channel.soundChannel_of_reset (h : c.known = (Channel.reset caps).known) : SoundChannel none c := by
  have hdown : c.initialized = false := congrArg Channel.initialized h
  have hread : c.readState = .idle := congrArg Channel.readState h
  have hwqAttached : c.wqAttached = false := congrArg Channel.wqAttached h
  have hrqAttached : c.rqAttached = false := congrArg Channel.rqAttached h
  have hcbEn : c.cbEn = false := congrArg Channel.cbEn h
  have hier : c.ier = ⟨false, false, false⟩ := congrArg Channel.ier h
  have hbusy : c.tsrBusy = false := congrArg Channel.tsrBusy h
  have hwq : c.wq = ⟨[], caps.wcap⟩ := congrArg Channel.wq h
  have hrq : c.rq = ⟨[], caps.rcap⟩ := congrArg Channel.rq h
  have hwt : c.wt.registered = false := c.known_agrees.wtRegistered.symm.trans (congrArg (·.wt.registered) h)
  have hrt : c.rt.registered = false := c.known_agrees.rtRegistered.symm.trans (congrArg (·.rt.registered) h)
  have htxlog : c.txlog = [] := congrArg Channel.txlog h
  have hlinelog : c.linelog = [] := congrArg Channel.linelog h
  obtain ⟨hw, hr⟩ := Channel.held_of_reset h
  exact {
    wqFits := by rw [hwq]; exact Nat.zero_le _
    rqFits := by rw [hrq]; exact Nat.zero_le _
    writeNeeds := by rw [hw]; nofun
    readNeeds := by rw [hr]; nofun
    setupNeeds := by rw [hwqAttached, hrqAttached, hcbEn]; nofun
    beforeBringUp := fun _ => ⟨hier, hbusy, htxlog.trans hlinelog.symm⟩
    wtHeld := hwt.trans hw.symm
    rtHeld := by rw [hrt, hr]; rfl
    rxneieHeld := by rw [hier, hread]; rfl
    enqueueWindowDraining := nofun
    taskwWindowIdle := nofun
    readWindowIdle := nofun
    taskrWindowArmed := nofun
    tcExact := fun hi => absurd (hdown.symm.trans hi) nofun
    lineOrder := fun hi => absurd (hdown.symm.trans hi) nofun }

theorem Channel.orderlyChannel_of_reset (h : c.known = (Channel.reset caps).known) (now : Nat) :
    OrderlyChannel now none c := by
  have hwrite : c.writeState = .idle := congrArg Channel.writeState h
  have hier : c.ier = ⟨false, false, false⟩ := congrArg Channel.ier h
  have hwq : c.wq = ⟨[], caps.wcap⟩ := congrArg Channel.wq h
  have hwt : c.wt.registered = false := c.known_agrees.wtRegistered.symm.trans (congrArg (·.wt.registered) h)
  exact {
    enabledDraining := by rw [hier]; nofun
    drainingDriven := by rw [hwrite]; nofun
    dueQuiet := fun _ => by rw [hier]; exact ⟨rfl, rfl⟩
    queueServed := fun hne => absurd (congrArg ByteQueue.data hwq) hne
    neverTimed := fun hreg => absurd (hwt.symm.trans hreg) nofun
    windowRearmed := nofun }

end

theorem IsReset.orderly {params : Params} {s : State} (h : IsReset params s) : Orderly s := by
  have hpending := State.pendingOn_of_coop_none h.coop_eq_none
  have hheld : ∀ c ∈ s.chans, c.writeState = .idle ∧ c.readState = .idle := by
    intro c hc
    obtain ⟨ch, hc⟩ := List.getElem?_of_mem hc
    obtain ⟨caps, hcaps⟩ := h.channel hc
    exact ⟨congrArg Channel.writeState hcaps, congrArg Channel.readState hcaps⟩
  refine ⟨⟨fun ch c hc => ?_, ?_, ?_, ?_⟩, fun ch c hc => ?_⟩
  · obtain ⟨caps, hcaps⟩ := h.channel hc
    exact hpending ch ▸ Channel.soundChannel_of_reset hcaps
  · rw [h.coop_eq_none]
    nofun
  · rw [sum_hfShare_quiet h.coop_eq_none, h.hfCount_eq_zero, List.countP_eq_zero.2, List.countP_eq_zero.2]
    · exact fun c hc => by simp [hheld c hc]
    · exact fun c hc => by simp [hheld c hc]
  · rw [sum_dsShare_quiet h.coop_eq_none, h.dsCount_eq_zero, List.countP_eq_zero.2]
    exact fun c hc => by simp [hheld c hc]
  · obtain ⟨caps, hcaps⟩ := h.channel hc
    exact hpending ch ▸ Channel.orderlyChannel_of_reset hcaps _

/-- Settles O48: whatever is unspecified, the invariant speaks of the specified values only. -/
theorem resetIsOrderly : Obligations.ResetIsOrderly := fun _ _ h => h.orderly

/-! ### Every state of a run that avoids the hazard (10_state.md R30) -/

theorem Reached.orderly {params : Params} {s : State} (h : Reached params s) : Orderly s := by
  induction h with
  | reset h => exact h.orderly
  | step _ hi hq ht ih =>
    refine stepKeepsOrderly _ _ ih (fun i u hf => ?_) ht
    cases hi.symm.trans hf
    exact hq

/-- Settles O51: an orderly state in which no window is open. -/
theorem sourceInvariantsHold : Obligations.SourceInvariantsHold := by
  intro params s hreached hco
  have ⟨hs, ho⟩ := hreached.orderly
  refine ⟨fun ch c hc => ?_, hs.hfExact.trans (sum_hfShare_quiet hco), hs.dsExact.trans (sum_dsShare_quiet hco)⟩
  have hsound := hs.channels ch c hc
  have horderly := ho ch c hc
  rw [State.pendingOn_of_coop_none hco] at hsound horderly
  have hwt := hsound.wtHeld
  have hrt := hsound.rtHeld
  have hrxneie := hsound.rxneieHeld
  rw [writeHeld_none] at hwt
  rw [readHeld_none, armPending] at hrt
  refine ⟨by simp [hwt], by simp [hrt], horderly.enabledDraining, fun hdraining => ?_, by simp [hrxneie]⟩
  obtain h | h | h | h := horderly.drainingDriven hdraining
  · exact .inl h
  · exact .inr (.inl h)
  · exact .inr (.inr h)
  · cases h

end Sys2Proof.Machine

/-!
O54: a step touches one channel only (10_state.md R20, 60_exceptions.md R234).

A whole operation is its `ph0` and then micro-steps of the same operation on the same channel (`exec_commits`); each of them
is a commit there.
-/

namespace Sys2Proof.Machine

/-! ### An instruction as a sequence of commits -/

/-- A micro-step of operation `o`, pending on channel `ch`, is run and committed. -/
def MicroCommit (o : Op) (ch : Nat) (s t : State) : Prop :=
  ∃ q c f p, q.op = o ∧ Commits s ch c f p t ∧ runMicro q ch ⟨c, s.shared⟩ = .ok (f, p)

theorem runMicro_op {q q' : Pending} {ch : Nat} {f f' : Focus} (h : runMicro q ch f = .ok (f', some q')) :
    q'.op = q.op := by
  cases q with
  | enqueuePh1 k n => obtain ⟨⟨⟩, -⟩ := enqueuePh1_ok.1 h; rfl
  | enqueuePh2 k n | armPh2 => obtain ⟨-, ⟨⟩⟩ := Focus.answer_ok.1 h
  | armPh1 | cancelPh1 => cases h; rfl
  | cancelPh2 => obtain ⟨⟨⟩, -⟩ := cancelPh2_ok.1 h
  | taskwPh1 => obtain ⟨⟨⟩, -⟩ := taskwPh1_ok h
  | taskrPh1 => cases h

theorem firstMicro_op {i : Instr} {q : Pending} {f f' : Focus} (h : firstMicro i f = some (.ok (f', some q))) :
    q.op = i.op := by
  cases i with
  | init ch lp => obtain ⟨-, -, ⟨⟩⟩ := initPh0_ok.1 (Option.some.inj h)
  | attach ch w r => obtain ⟨⟨⟩, -⟩ := attachPh0_ok (Option.some.inj h)
  | setcb ch en ctx => obtain ⟨⟨⟩, -⟩ := setcbPh0_ok (Option.some.inj h)
  | drain ch max => obtain ⟨⟨⟩, -⟩ := drainPh0_ok.1 (Option.some.inj h)
  | enqueue ch p bs =>
    obtain ⟨⟨⟨⟩, -⟩, -⟩ | ⟨-, -, -, -, ⟨⟩⟩ := enqueuePh0_ok (Option.some.inj h)
    rfl
  | arm ch p timeout =>
    obtain ⟨⟨⟩, -⟩ | ⟨-, -, -, -, -, ⟨⟩⟩ := armPh0_ok (Option.some.inj h)
    rfl
  | cancel ch p =>
    obtain ⟨-, -, ⟨⟩⟩ | ⟨-, -, ⟨⟩⟩ := cancelPh0_ok.1 (Option.some.inj h)
    rfl
  | taskw ch p =>
    obtain ⟨-, h⟩ := Option.ite_none_right_eq_some.1 h
    cases h
    rfl
  | taskr ch p =>
    obtain ⟨-, h⟩ := Option.ite_none_right_eq_some.1 h
    obtain ⟨⟨⟩, -⟩ := taskrPh0_ok.1 (Option.some.inj h)
    rfl
  | irq | hwload | hwdone | hwrx | tick | costep => cases h

/-- The operation in flight, if there is one, is `o` on channel `ch`. -/
def State.OnlyInFlight (o : Op) (ch : Nat) (s : State) : Prop := ∀ co, s.coop = some co → co.ch = ch ∧ co.next.op = o

section
variable {s t : State} {ch : Nat} {c : Channel} {f : Focus} {p : Option Pending} {o : Op}

/-- After a commit the operation in flight is the one whose micro-step is pending. -/
theorem Commits.onlyInFlight (h : Commits s ch c f p t) (hs : ∀ co, s.coop = some co → co.ch = ch)
    (hp : ∀ q, p = some q → q.op = o) : t.OnlyInFlight o ch := by
  intro co hco
  have hch : co.ch = ch := (h.coop co hco).elim id (hs co)
  refine ⟨hch, hp co.next ?_⟩
  rw [← h.pending, State.pendingOn, hco]
  exact if_pos hch

theorem State.runPending_microCommit (hs : s.OnlyInFlight o ch) (h : s.runPending = .next t) :
    MicroCommit o ch s t ∧ t.OnlyInFlight o ch := by
  obtain ⟨ch', q, c, f, p, hco, hcommit, hm⟩ := State.runPending_commits h
  obtain ⟨rfl, hop⟩ := hs _ hco
  exact ⟨⟨q, c, f, p, hop, hcommit, hm⟩, hcommit.onlyInFlight (fun co e => (hs co e).1)
    fun q' e => (runMicro_op (e ▸ hm)).trans hop⟩

theorem State.runToEnd_microCommits {n : Nat} (hs : s.OnlyInFlight o ch) (h : State.runToEnd n s = .next t) :
    Relation.ReflTransGen (MicroCommit o ch) s t := by
  have hkept := State.runToEnd_keeps
    (P := fun u => Relation.ReflTransGen (MicroCommit o ch) s u ∧ u.OnlyInFlight o ch)
    (fun u v hr ⟨hsu, hu⟩ => by
      obtain ⟨huv, hv⟩ := State.runPending_microCommit hu hr
      exact ⟨hsu.tail huv, hv⟩) n s t h ⟨.refl, hs⟩
  exact hkept.1

end

/-- The commits of an instruction: one on the channel it names, followed, where P = 0, by the micro-steps that remain; the
pending micro-step, for COSTEP; none, for TICK. -/
theorem exec_commits {i : Instr} {s t : State} (h : exec i s = .next t) :
    (∃ ch c f p u, i.channel? = some ch ∧ Commits s ch c f p u ∧ IndivisibleStep i s ch c f p ∧
        (t = u ∨ i.preemptible ≠ i ∧ Relation.ReflTransGen (MicroCommit i.op ch) u t)) ∨
      (∃ ch q c f p, i = .costep ∧ s.coop = some ⟨ch, q⟩ ∧ Commits s ch c f p t ∧
        runMicro q ch ⟨c, s.shared⟩ = .ok (f, p)) ∨
      ∃ dt, i = .tick dt ∧ t = { s with shared := { s.shared with now := s.shared.now + dt } } := by
  by_cases hp : i.preemptible = i
  · obtain ⟨ch, c, f, p, hi, hcommit, hstep⟩ | ⟨rfl, hr⟩ | htick := exec_preemptible_commits (hp.symm ▸ h)
    · exact .inl ⟨ch, c, f, p, t, hi, hcommit, hstep, .inl rfl⟩
    · obtain ⟨ch, q, c, f, p, hco, hcommit, hm⟩ := State.runPending_commits hr
      exact .inr (.inl ⟨ch, q, c, f, p, rfl, hco, hcommit, hm⟩)
    · exact .inr (.inr htick)
  · obtain ⟨u, hu, htu⟩ := exec_next_split h
    obtain ⟨ch, c, f, p, hi, hcommit, hstep⟩ | ⟨rfl, -⟩ | ⟨dt, rfl, -⟩ := exec_preemptible_commits hu
    · refine .inl ⟨ch, c, f, p, u, hi, hcommit, hstep, htu.imp_right fun hend => ⟨hp, ?_⟩⟩
      cases hstep with
      | first hco hm =>
        exact State.runToEnd_microCommits
          (hcommit.onlyInFlight (by rw [hco]; nofun) fun q e => firstMicro_op (e ▸ hm)) hend
      | sole hm =>
        cases i with
        | irq | hwload | hwdone | hwrx => exact absurd rfl hp
        | _ => cases hm
    · exact absurd rfl hp
    · exact absurd rfl hp

/-! ### What a commit leaves alone -/

/-- Between the two states nothing changed but channel `ch`, what the channels share and the operation in flight. -/
structure State.TouchesOnly (ch : Nat) (s t : State) : Prop where
  nch : t.nch = s.nch
  stream : t.stream = s.stream
  fault : t.fault = s.fault
  others : ∀ ch', ch' ≠ ch → t.chans[ch']? = s.chans[ch']?

theorem Commits.touchesOnly {s t : State} {ch : Nat} {c : Channel} {f : Focus} {p : Option Pending}
    (h : Commits s ch c f p t) : s.TouchesOnly ch t := ⟨h.nch, h.stream, h.fault, fun _ => h.other⟩

theorem State.TouchesOnly.trans {ch : Nat} {s t u : State} (h : s.TouchesOnly ch t) (h' : t.TouchesOnly ch u) :
    s.TouchesOnly ch u :=
  ⟨h'.nch.trans h.nch, h'.stream.trans h.stream, h'.fault.trans h.fault,
    fun ch' hne => (h'.others ch' hne).trans (h.others ch' hne)⟩

theorem State.TouchesOnly.of_microCommits {o : Op} {ch : Nat} {s t u : State} (h : s.TouchesOnly ch t)
    (htu : Relation.ReflTransGen (MicroCommit o ch) t u) : s.TouchesOnly ch u := by
  induction htu with
  | refl => exact h
  | tail _ hstep ih =>
    obtain ⟨q, c, f, p, -, hcommit, -⟩ := hstep
    exact ih.trans hcommit.touchesOnly

/-- The instruction acts on channel `ch`: it names it, or is COSTEP with the operation in flight there. -/
def ActsOn (i : Instr) (s : State) (ch : Nat) : Prop :=
  i.channel? = some ch ∨ i = .costep ∧ ∃ q, s.coop = some ⟨ch, q⟩

theorem exec_touchesOnly {i : Instr} {s t : State} (h : exec i s = .next t) :
    (∃ ch, ActsOn i s ch ∧ s.TouchesOnly ch t) ∨
      ∃ dt, i = .tick dt ∧ t = { s with shared := { s.shared with now := s.shared.now + dt } } := by
  obtain ⟨ch, c, f, p, u, hi, hcommit, -, rfl | ⟨-, hut⟩⟩ | ⟨ch, q, c, f, p, rfl, hco, hcommit, -⟩ | htick :=
    exec_commits h
  · exact .inl ⟨ch, .inl hi, hcommit.touchesOnly⟩
  · exact .inl ⟨ch, .inl hi, hcommit.touchesOnly.of_microCommits hut⟩
  · exact .inl ⟨ch, .inr ⟨rfl, q, hco⟩, hcommit.touchesOnly⟩
  · exact .inr htick

/-- An instruction acts on one channel at most. -/
theorem ActsOn.unique {i : Instr} {s : State} {a b : Nat} (ha : ActsOn i s a) (hb : ActsOn i s b) : a = b := by
  obtain ha | ⟨rfl, q, ha⟩ := ha
  · obtain hb | ⟨rfl, -⟩ := hb
    · exact Option.some.inj (ha.symm.trans hb)
    · cases ha
  · obtain hb | ⟨-, q', hb⟩ := hb
    · cases hb
    · cases ha.symm.trans hb
      rfl

/-- Settles O54: an instruction's commits are all on the channel it acts on, and TICK commits nothing. -/
theorem stepsTouchOneChannel : Obligations.StepsTouchOneChannel := by
  intro s t i h
  obtain ⟨ch, hacts, hnch, hstream, hfault, hothers⟩ | ⟨dt, rfl, rfl⟩ := exec_touchesOnly h
  · refine ⟨hnch, hstream, hfault, fun a ha ch' hne => ?_, fun hi a q ha ch' hne => ?_, fun dt hi => ?_⟩
    · exact hothers ch' (hacts.unique (.inl ha) ▸ hne)
    · exact hothers ch' (hacts.unique (.inr ⟨hi, q, ha⟩) ▸ hne)
    · subst hi
      obtain ⟨⟨⟩⟩ | ⟨⟨⟩, -⟩ := hacts
  · refine ⟨rfl, rfl, rfl, nofun, nofun, fun dt' hi => ?_⟩
    cases hi
    exact ⟨rfl, rfl, rfl⟩

end Sys2Proof.Machine

/-!
O55, O56, O57: who writes the sub-states, the other fields of the control block, and the interrupt enable bits (10_state.md
R22, R23, R31, R34).

`Authored a c c'` says what the author `a`, an instruction's own step or a micro-step that follows, may have changed between
`c` and `c'`. An instruction's changes of a channel are a sequence of those its authors make (`exec_history`), so a field
that changed has an author who may change it.
-/

namespace Sys2Proof.Machine

/-! ### Authors and what they may write -/

/-- What changes a channel: the `ph0` or the one step of an operation, or a micro-step after `ph0`. -/
inductive Author where
  | op (o : Op)
  | micro (q : Pending)

/-- Every change of these fields between `c` and `c'` is one that `a` may make. -/
structure Authored (a : Author) (c c' : Channel) : Prop where
  initialized : c'.initialized ≠ c.initialized → a = .op .init ∧ c'.initialized = true
  lp : c'.lp ≠ c.lp → a = .op .init
  attached : c'.wqAttached ≠ c.wqAttached ∨ c'.rqAttached ≠ c.rqAttached → a = .op .attach
  callback : c'.cbEn ≠ c.cbEn ∨ c'.cbCtx ≠ c.cbCtx → a = .op .setcb
  readTimeout : c'.readTimeout ≠ c.readTimeout → a = .op .arm
  drains : c.writeState = .idle → c'.writeState = .draining → ∃ k n, a = .micro (.enqueuePh1 k n)
  completes : c.writeState = .draining → c'.writeState = .idle → a = .op .taskw
  arms : c.readState = .idle → c'.readState = .armed → a = .micro .armPh2
  cancels : c.readState = .armed → c'.readState = .idle → a = .op .cancel
  txeieSet : c.ier.txeie = false → c'.ier.txeie = true → ∃ k n, a = .micro (.enqueuePh2 k n)
  txeieCleared : c.ier.txeie = true → c'.ier.txeie = false →
    (a = .op .irq ∧ c.isr.txe = true ∧ c.wq.data = []) ∨ a = .op .init
  tcieSet : c.ier.tcie = false → c'.ier.tcie = true →
    a = .op .irq ∧ c.ier.txeie = true ∧ c.isr.txe = true ∧ c.wq.data = []
  tcieCleared : c.ier.tcie = true → c'.ier.tcie = false → (a = .op .irq ∧ c.isr.tc = true) ∨ a = .op .init
  rxneieSet : c.ier.rxneie = false → c'.ier.rxneie = true → a = .micro .armPh1
  rxneieCleared : c.ier.rxneie = true → c'.ier.rxneie = false → a = .micro .cancelPh1 ∨ a = .op .init

/-- Any author may leave everything as it is. -/
theorem Authored.refl (a : Author) (c : Channel) : Authored a c c where
  initialized h := absurd rfl h
  lp h := absurd rfl h
  attached h := absurd h (by simp)
  callback h := absurd h (by simp)
  readTimeout h := absurd rfl h
  drains h h' := absurd (h.symm.trans h') nofun
  completes h h' := absurd (h.symm.trans h') nofun
  arms h h' := absurd (h.symm.trans h') nofun
  cancels h h' := absurd (h.symm.trans h') nofun
  txeieSet h h' := absurd (h.symm.trans h') nofun
  txeieCleared h h' := absurd (h.symm.trans h') nofun
  tcieSet h h' := absurd (h.symm.trans h') nofun
  tcieCleared h h' := absurd (h.symm.trans h') nofun
  rxneieSet h h' := absurd (h.symm.trans h') nofun
  rxneieCleared h h' := absurd (h.symm.trans h') nofun

theorem firstMicro_authored {i : Instr} {f f' : Focus} {p : Option Pending}
    (h : firstMicro i f = some (.ok (f', p))) : Authored (.op i.op) f.c f'.c := by
  have unchanged := Authored.refl (.op i.op) f.c
  cases i with
  | init ch lp =>
    obtain ⟨-, rfl, -⟩ := initPh0_ok.1 (Option.some.inj h)
    exact { unchanged with
      initialized := fun _ => ⟨rfl, rfl⟩
      lp := fun _ => rfl
      txeieSet := nofun
      txeieCleared := fun _ _ => .inr rfl
      tcieSet := nofun
      tcieCleared := fun _ _ => .inr rfl
      rxneieSet := nofun
      rxneieCleared := fun _ _ => .inr rfl }
  | attach ch w r =>
    obtain ⟨-, ⟨-, rfl⟩ | ⟨-, -, -, rfl⟩⟩ := attachPh0_ok (Option.some.inj h)
    · exact unchanged
    · exact { unchanged with attached := fun _ => rfl }
  | setcb ch en ctx =>
    obtain ⟨-, ⟨-, rfl⟩ | ⟨-, rfl⟩⟩ := setcbPh0_ok (Option.some.inj h)
    · exact unchanged
    · exact { unchanged with callback := fun _ => rfl }
  | enqueue ch p bs =>
    obtain ⟨⟨-, hc, -⟩, -⟩ | ⟨-, -, -, rfl, -⟩ := enqueuePh0_ok (Option.some.inj h)
    · rwa [hc]
    · exact { unchanged with }
  | arm ch p timeout =>
    obtain ⟨-, hc, -⟩ | ⟨-, -, -, -, rfl, -⟩ := armPh0_ok (Option.some.inj h)
    · rwa [hc]
    · exact { unchanged with readTimeout := fun _ => rfl }
  | cancel ch p =>
    obtain ⟨-, rfl, -⟩ | ⟨-, rfl, -⟩ := cancelPh0_ok.1 (Option.some.inj h)
    · exact unchanged
    · exact { unchanged with arms := nofun, cancels := fun _ _ => rfl }
  | drain ch max =>
    obtain ⟨-, ⟨-, rfl⟩ | ⟨-, rfl⟩⟩ := drainPh0_ok.1 (Option.some.inj h)
    · exact unchanged
    · exact { unchanged with }
  | taskw ch p =>
    obtain ⟨-, h⟩ := Option.ite_none_right_eq_some.1 h
    cases h
    exact { unchanged with drains := nofun, completes := fun _ _ => rfl }
  | taskr ch p =>
    obtain ⟨-, h⟩ := Option.ite_none_right_eq_some.1 h
    obtain ⟨-, -, rfl⟩ := taskrPh0_ok.1 (Option.some.inj h)
    exact { unchanged with }
  | irq | hwload | hwdone | hwrx | tick | costep => cases h

theorem runMicro_authored {q : Pending} {ch : Nat} {f f' : Focus} {p : Option Pending}
    (h : runMicro q ch f = .ok (f', p)) : Authored (.micro q) f.c f'.c := by
  have unchanged := Authored.refl (.micro q) f.c
  cases q with
  | enqueuePh1 k n =>
    obtain ⟨-, ⟨-, -, rfl⟩ | ⟨-, -, rfl⟩⟩ := enqueuePh1_ok.1 h
    · exact { unchanged with drains := fun _ _ => ⟨k, n, rfl⟩, completes := nofun }
    · exact { unchanged with }
  | enqueuePh2 k n =>
    obtain ⟨rfl, -⟩ := Focus.answer_ok.1 h
    exact { unchanged with txeieSet := fun _ _ => ⟨k, n, rfl⟩, txeieCleared := nofun }
  | armPh1 =>
    cases h
    exact { unchanged with rxneieSet := fun _ _ => rfl, rxneieCleared := nofun }
  | armPh2 =>
    obtain ⟨rfl, -⟩ := Focus.answer_ok.1 h
    exact { unchanged with arms := fun _ _ => rfl, cancels := nofun }
  | cancelPh1 =>
    cases h
    exact { unchanged with rxneieSet := nofun, rxneieCleared := fun _ _ => .inl rfl }
  | cancelPh2 =>
    obtain ⟨-, -, -, rfl⟩ := cancelPh2_ok.1 h
    exact { unchanged with }
  | taskwPh1 =>
    obtain ⟨-, -, hc, -⟩ := taskwPh1_ok h
    rw [hc]
    exact { unchanged with }
  | taskrPh1 =>
    cases h
    rwa [Focus.report_c]

/-- The columns of the transmit side (43_interrupt_mux.md R174): TXEIE falls and TCIE rises on an empty queue. -/
theorem transmitOutcome_authored (now : Nat) (c : Channel) : Authored (.op .irq) c (transmitOutcome now c) := by
  have unchanged := Authored.refl (.op .irq) c
  unfold transmitOutcome
  split
  next hq =>
    obtain ⟨htxeie, htxe⟩ := Bool.and_eq_true_iff.1 hq
    split
    next => exact { unchanged with }
    next hdata =>
      have cleared : Author.op .irq = .op .irq ∧ c.isr.txe = true ∧ c.wq.data = [] := ⟨rfl, htxe, hdata⟩
      split
      next htc =>
        exact { unchanged with
          txeieSet := nofun
          txeieCleared := fun _ _ => .inl cleared
          tcieSet := nofun
          tcieCleared := fun _ _ => .inl ⟨rfl, htc⟩ }
      next =>
        exact { unchanged with
          txeieSet := nofun
          txeieCleared := fun _ _ => .inl cleared
          tcieSet := fun _ _ => ⟨rfl, htxeie, htxe, hdata⟩
          tcieCleared := nofun }
  next =>
    split
    next hq =>
      exact { unchanged with
        tcieSet := nofun
        tcieCleared := fun _ _ => .inl ⟨rfl, (Bool.and_eq_true_iff.1 hq).2⟩ }
    next => exact unchanged

theorem multiplexer_authored {f f' : Focus} (h : multiplexer f = .ok f') : Authored (.op .irq) f.c f'.c := by
  obtain ⟨-, e⟩ | ⟨-, e⟩ := multiplexer_cases f <;> rw [e] at h <;> cases h
  obtain ⟨isr, rq, due, hreceive⟩ := receiveOutcome_frame f.g.now (transmitOutcome f.g.now f.c)
  rw [irqOutcome, hreceive]
  exact { transmitOutcome_authored f.g.now f.c with }

theorem soleStep_authored {i : Instr} {f f' : Focus} (h : soleStep i f = some (.ok f')) :
    Authored (.op i.op) f.c f'.c := by
  have unchanged := Authored.refl (.op i.op) f.c
  cases i with
  | irq ch => exact multiplexer_authored (Option.some.inj h)
  | hwload ch | hwdone ch =>
    obtain ⟨-, h⟩ := Option.ite_none_right_eq_some.1 h
    cases h
    exact { unchanged with }
  | hwrx ch b =>
    obtain ⟨-, h⟩ := Option.ite_none_right_eq_some.1 h
    cases h
    show Authored _ f.c (f.c.receive b)
    unfold Channel.receive
    split
    · exact unchanged
    · exact { unchanged with }
  | init | attach | setcb | enqueue | arm | cancel | drain | taskw | taskr | tick | costep => cases h

theorem IndivisibleStep.authored {i : Instr} {s : State} {ch : Nat} {c : Channel} {f : Focus} {p : Option Pending}
    (h : IndivisibleStep i s ch c f p) : Authored (.op i.op) c f.c := by
  cases h with
  | first _ hm => exact firstMicro_authored hm
  | sole hm => exact soleStep_authored hm

/-! ### The history of a channel in one step of the machine -/

/-- The authors of what instruction `i` changes on channel `ch`: its own step; the micro-steps that follow where P = 0; the
pending micro-step, for COSTEP. -/
def Authors (i : Instr) (s : State) (ch : Nat) : Author → Prop
  | .op o => i.op = o ∧ i.channel? = some ch
  | .micro q =>
    (i.preemptible ≠ i ∧ i.op = q.op ∧ i.channel? = some ch) ∨ (i = .costep ∧ s.coop = some ⟨ch, q⟩)

/-- `c` became `c'` by changes of these authors, in some number. -/
def History (A : Author → Prop) : Channel → Channel → Prop :=
  Relation.ReflTransGen fun c c' => ∃ a, A a ∧ Authored a c c'

/-- A property that was lost was lost by the change of one author. -/
theorem History.exists_author {A : Author → Prop} {P : Channel → Prop} {c c' : Channel} (h : History A c c') (hc : P c)
    (hc' : ¬P c') : ∃ a d d', A a ∧ Authored a d d' ∧ P d ∧ ¬P d' := by
  induction h with
  | refl => exact absurd hc hc'
  | @tail d d' _ hstep ih =>
    by_cases hd : P d
    · obtain ⟨a, ha, hauthored⟩ := hstep
      exact ⟨a, d, d', ha, hauthored, hd, hc'⟩
    · exact ih hd

theorem History.of_microCommits {A : Author → Prop} {o : Op} {ch : Nat} {s t : State} {c c' d : Channel}
    (hA : ∀ q, q.op = o → A (.micro q)) (h : History A d c) (hst : Relation.ReflTransGen (MicroCommit o ch) s t)
    (hc : s.chans[ch]? = some c) (hc' : t.chans[ch]? = some c') : History A d c' := by
  induction hst generalizing c' with
  | refl =>
    obtain rfl : c = c' := Option.some.inj (hc.symm.trans hc')
    exact h
  | tail _ hstep ih =>
    obtain ⟨q, x, f, p, hop, hcommit, hm⟩ := hstep
    obtain rfl : f.c = c' := Option.some.inj (hcommit.same.symm.trans hc')
    exact (ih hcommit.found).tail ⟨_, hA q hop, runMicro_authored hm⟩

theorem exec_history {i : Instr} {s t : State} {ch : Nat} {c c' : Channel} (h : exec i s = .next t)
    (hc : s.chans[ch]? = some c) (hc' : t.chans[ch]? = some c') : History (Authors i s ch) c c' := by
  by_cases hacts : ActsOn i s ch
  · obtain ⟨a, x, f, p, u, hi, hcommit, hstep, htu⟩ | ⟨a, q, x, f, p, rfl, hco, hcommit, hm⟩ | ⟨dt, rfl, -⟩ :=
      exec_commits h
    · obtain rfl := hacts.unique (.inl hi)
      obtain rfl : c = x := Option.some.inj (hc.symm.trans hcommit.found)
      have hfirst : History (Authors i s ch) c f.c := .single ⟨.op i.op, ⟨rfl, hi⟩, hstep.authored⟩
      obtain rfl | ⟨hp, hut⟩ := htu
      · obtain rfl : f.c = c' := Option.some.inj (hcommit.same.symm.trans hc')
        exact hfirst
      · exact hfirst.of_microCommits (fun q hq => .inl ⟨hp, hq.symm, hi⟩) hut hcommit.same hc'
    · obtain rfl := hacts.unique (.inr ⟨rfl, q, hco⟩)
      obtain rfl : c = x := Option.some.inj (hc.symm.trans hcommit.found)
      obtain rfl : f.c = c' := Option.some.inj (hcommit.same.symm.trans hc')
      exact .single ⟨.micro q, Or.inr ⟨rfl, hco⟩, runMicro_authored hm⟩
    · obtain ⟨⟨⟩⟩ | ⟨⟨⟩, -⟩ := hacts
  · have hsame : t.chans[ch]? = s.chans[ch]? := by
      obtain ⟨a, ha, htouches⟩ | ⟨dt, -, rfl⟩ := exec_touchesOnly h
      · exact htouches.others ch fun e => hacts (e ▸ ha)
      · rfl
    obtain rfl : c = c' := Option.some.inj (hc.symm.trans (hsame.symm.trans hc'))
    exact .refl

/-- An IRQ step is one change of its channel. -/
theorem exec_irq_authored {s t : State} {ch : Nat} {c c' : Channel} (h : exec (.irq ch) s = .next t)
    (hc : s.chans[ch]? = some c) (hc' : t.chans[ch]? = some c') : Authored (.op .irq) c c' := by
  obtain ⟨a, x, f, p, u, hi, hcommit, hstep, htu⟩ | ⟨a, q, x, f, p, ⟨⟩, -⟩ | ⟨dt, ⟨⟩, -⟩ := exec_commits h
  cases hi
  obtain rfl | ⟨hp, -⟩ := htu
  · obtain rfl : c = x := Option.some.inj (hc.symm.trans hcommit.found)
    obtain rfl : f.c = c' := Option.some.inj (hcommit.same.symm.trans hc')
    exact hstep.authored
  · exact absurd rfl hp

/-! ### Authors as instructions -/

/-- `i` is an instruction of the given operation on channel `ch`, its other operands left open. -/
def SpelledOn (ch : Nat) (i : Instr) : Op → Prop
  | .init => ∃ lp, i = .init ch lp
  | .attach => ∃ w r, i = .attach ch w r
  | .setcb => ∃ en ctx, i = .setcb ch en ctx
  | .enqueue => ∃ p bs, i = .enqueue ch p bs
  | .arm => ∃ p timeout, i = .arm ch p timeout
  | .cancel => ∃ p, i = .cancel ch p
  | .drain => ∃ max, i = .drain ch max
  | .taskw => ∃ p, i = .taskw ch p
  | .taskr => ∃ p, i = .taskr ch p
  | .irq => i = .irq ch
  | .hwload => i = .hwload ch
  | .hwdone => i = .hwdone ch
  | .hwrx => ∃ b, i = .hwrx ch b
  | .tick | .costep => False

theorem spelledOn_of_channel {i : Instr} {ch : Nat} (h : i.channel? = some ch) : SpelledOn ch i i.op := by
  cases i with
  | init | cancel | drain | taskw | taskr | hwrx => cases h; exact ⟨_, rfl⟩
  | attach | setcb | enqueue | arm => cases h; exact ⟨_, _, rfl⟩
  | irq | hwload | hwdone => cases h; rfl
  | tick | costep => cases h

section
variable {i : Instr} {s : State} {ch : Nat}

theorem Authors.spelled {o : Op} (h : Authors i s ch (.op o)) : SpelledOn ch i o := by
  obtain ⟨rfl, hi⟩ := h
  exact spelledOn_of_channel hi

/-- A micro-step after `ph0` is run by its operation where P = 0, or by COSTEP. -/
theorem Authors.micro {q : Pending} (h : Authors i s ch (.micro q)) :
    (i.preemptible ≠ i ∧ SpelledOn ch i q.op) ∨ (i = .costep ∧ s.coop = some ⟨ch, q⟩) :=
  h.imp_left fun ⟨hp, hop, hi⟩ => ⟨hp, hop ▸ spelledOn_of_channel hi⟩

theorem whole_enqueue (hp : i.preemptible ≠ i) (h : SpelledOn ch i .enqueue) : ∃ bs, i = .enqueue ch false bs := by
  obtain ⟨p, bs, rfl⟩ := h
  cases p with
  | false => exact ⟨bs, rfl⟩
  | true => exact absurd rfl hp

theorem whole_arm (hp : i.preemptible ≠ i) (h : SpelledOn ch i .arm) : ∃ timeout, i = .arm ch false timeout := by
  obtain ⟨p, timeout, rfl⟩ := h
  cases p with
  | false => exact ⟨timeout, rfl⟩
  | true => exact absurd rfl hp

theorem whole_cancel (hp : i.preemptible ≠ i) (h : SpelledOn ch i .cancel) : i = .cancel ch false := by
  obtain ⟨p, rfl⟩ := h
  cases p with
  | false => rfl
  | true => exact absurd rfl hp

end

/-! ### The obligations -/

theorem WriteState.ne_idle {w : WriteState} : w ≠ .idle ↔ w = .draining := by cases w <;> decide

theorem WriteState.ne_draining {w : WriteState} : w ≠ .draining ↔ w = .idle := by cases w <;> decide

theorem ReadState.ne_idle {r : ReadState} : r ≠ .idle ↔ r = .armed := by cases r <;> decide

theorem ReadState.ne_armed {r : ReadState} : r ≠ .armed ↔ r = .idle := by cases r <;> decide

/-- Settles O55: the author of a change of sub-state is the operation that draws it. -/
theorem subStatesChangeOnlyAsDrawn : Obligations.SubStatesChangeOnlyAsDrawn := by
  intro s t i ch c c' h hc hc'
  have hist := exec_history h hc hc'
  refine ⟨fun hidle hdraining => ?_, fun hdraining hidle => ?_, fun hidle harmed => ?_, fun harmed hidle => ?_⟩
  · obtain ⟨a, d, d', ha, hd, hfrom, hto⟩ :=
      hist.exists_author (P := (·.writeState = .idle)) hidle (WriteState.ne_idle.2 hdraining)
    obtain ⟨k, n, rfl⟩ := hd.drains hfrom (WriteState.ne_idle.1 hto)
    exact ha.micro.imp (fun ⟨hp, hi⟩ => whole_enqueue hp hi) fun ⟨hi, hco⟩ => ⟨hi, k, n, hco⟩
  · obtain ⟨a, d, d', ha, hd, hfrom, hto⟩ :=
      hist.exists_author (P := (·.writeState = .draining)) hdraining (WriteState.ne_draining.2 hidle)
    obtain rfl := hd.completes hfrom (WriteState.ne_draining.1 hto)
    exact ha.spelled
  · obtain ⟨a, d, d', ha, hd, hfrom, hto⟩ :=
      hist.exists_author (P := (·.readState = .idle)) hidle (ReadState.ne_idle.2 harmed)
    obtain rfl := hd.arms hfrom (ReadState.ne_idle.1 hto)
    exact ha.micro.imp_left fun ⟨hp, hi⟩ => whole_arm hp hi
  · obtain ⟨a, d, d', ha, hd, hfrom, hto⟩ :=
      hist.exists_author (P := (·.readState = .armed)) harmed (ReadState.ne_armed.2 hidle)
    obtain rfl := hd.cancels hfrom (ReadState.ne_armed.1 hto)
    exact ha.spelled

/-- A change of a field is due to an author that may change it. -/
theorem History.exists_writer {α : Type} {A : Author → Prop} {field : Channel → α} {c c' : Channel} (h : History A c c')
    (hne : field c' ≠ field c) : ∃ a d d', A a ∧ Authored a d d' ∧ field d' ≠ field d := by
  obtain ⟨a, d, d', ha, hd, hfrom, hto⟩ := h.exists_author (P := (field · = field c)) rfl hne
  exact ⟨a, d, d', ha, hd, fun e => hto (e.trans hfrom)⟩

/-- Bring-up is never undone (10_state.md R21). -/
theorem History.stays_initialized {A : Author → Prop} {c c' : Channel} (h : History A c c')
    (hc : c.initialized = true) : c'.initialized = true := by
  by_contra hdown
  obtain ⟨a, d, d', -, hd, hfrom, hto⟩ := h.exists_author (P := (·.initialized = true)) hc hdown
  exact hto (hd.initialized fun e => hto (e.trans hfrom)).2

/-- Settles O56: the author of a change of the field is the operation that writes it. -/
theorem controlBlockWriters : Obligations.ControlBlockWriters := by
  intro s t i ch c c' h hc hc'
  have hist := exec_history h hc hc'
  refine ⟨fun hne => ⟨?_, ?_⟩, fun hne => ?_, fun hne => ?_, fun hne => ?_, fun hne => ?_⟩
  · by_contra hdown
    have hc : c.initialized = false := eq_false_of_ne_true fun hup => hdown (hist.stays_initialized hup)
    exact hne ((Bool.eq_false_of_not_eq_true hdown).trans hc.symm)
  · obtain ⟨a, d, d', ha, hd, hwritten⟩ := hist.exists_writer (field := Channel.initialized) hne
    obtain rfl := (hd.initialized hwritten).1
    exact ha.spelled
  · obtain ⟨a, d, d', ha, hd, hwritten⟩ := hist.exists_writer (field := Channel.lp) hne
    obtain rfl := hd.lp hwritten
    exact ha.spelled
  · obtain hne | hne := hne
    · obtain ⟨a, d, d', ha, hd, hwritten⟩ := hist.exists_writer (field := Channel.wqAttached) hne
      obtain rfl := hd.attached (.inl hwritten)
      exact ha.spelled
    · obtain ⟨a, d, d', ha, hd, hwritten⟩ := hist.exists_writer (field := Channel.rqAttached) hne
      obtain rfl := hd.attached (.inr hwritten)
      exact ha.spelled
  · obtain hne | hne := hne
    · obtain ⟨a, d, d', ha, hd, hwritten⟩ := hist.exists_writer (field := Channel.cbEn) hne
      obtain rfl := hd.callback (.inl hwritten)
      exact ha.spelled
    · obtain ⟨a, d, d', ha, hd, hwritten⟩ := hist.exists_writer (field := Channel.cbCtx) hne
      obtain rfl := hd.callback (.inr hwritten)
      exact ha.spelled
  · obtain ⟨a, d, d', ha, hd, hwritten⟩ := hist.exists_writer (field := Channel.readTimeout) hne
    obtain rfl := hd.readTimeout hwritten
    exact ha.spelled

/-- A bit that changed was changed by an author, in the same direction. -/
theorem History.exists_switch {A : Author → Prop} {bit : Channel → Bool} {c c' : Channel} {b : Bool}
    (h : History A c c') (hc : bit c = b) (hc' : bit c' = !b) :
    ∃ a d d', A a ∧ Authored a d d' ∧ bit d = b ∧ bit d' = !b := by
  obtain ⟨a, d, d', ha, hd, hfrom, hto⟩ := h.exists_author (P := (bit · = b)) hc (Bool.eq_not.1 hc')
  exact ⟨a, d, d', ha, hd, hfrom, Bool.eq_not.2 hto⟩

/-- Settles O57: the author of a change of an enable bit is the operation that sets or clears it; where that is IRQ, its one
step says in which state. -/
theorem enableBitWriters : Obligations.EnableBitWriters := by
  intro s t i ch c c' h hc hc'
  have hist := exec_history h hc hc'
  have hirq (ha : Authors i s ch (.op .irq)) : i = .irq ch ∧ Authored (.op .irq) c c' := by
    obtain rfl : i = .irq ch := ha.spelled
    exact ⟨rfl, exec_irq_authored h hc hc'⟩
  refine ⟨fun hoff hon => ?_, fun hon hoff => ?_, fun hoff hon => ?_, fun hon hoff => ?_, fun hoff hon => ?_,
    fun hon hoff => ?_⟩
  · obtain ⟨a, d, d', ha, hd, hfrom, hto⟩ := hist.exists_switch (bit := (·.ier.txeie)) hoff hon
    obtain ⟨k, n, rfl⟩ := hd.txeieSet hfrom hto
    exact ha.micro.imp (fun ⟨hp, hi⟩ => whole_enqueue hp hi) fun ⟨hi, hco⟩ => ⟨hi, k, n, hco⟩
  · obtain ⟨a, d, d', ha, hd, hfrom, hto⟩ := hist.exists_switch (bit := (·.ier.txeie)) hon hoff
    obtain ⟨rfl, -⟩ | rfl := hd.txeieCleared hfrom hto
    · obtain ⟨hi, hstep⟩ := hirq ha
      obtain ⟨-, hcond⟩ | ⟨⟨⟩⟩ := hstep.txeieCleared hon hoff
      exact .inl ⟨hi, hcond⟩
    · exact .inr ha.spelled
  · obtain ⟨a, d, d', ha, hd, hfrom, hto⟩ := hist.exists_switch (bit := (·.ier.tcie)) hoff hon
    obtain ⟨rfl, -⟩ := hd.tcieSet hfrom hto
    obtain ⟨hi, hstep⟩ := hirq ha
    exact ⟨hi, (hstep.tcieSet hoff hon).2⟩
  · obtain ⟨a, d, d', ha, hd, hfrom, hto⟩ := hist.exists_switch (bit := (·.ier.tcie)) hon hoff
    obtain ⟨rfl, -⟩ | rfl := hd.tcieCleared hfrom hto
    · obtain ⟨hi, hstep⟩ := hirq ha
      obtain ⟨-, htc⟩ | ⟨⟨⟩⟩ := hstep.tcieCleared hon hoff
      exact .inl ⟨hi, htc⟩
    · exact .inr ha.spelled
  · obtain ⟨a, d, d', ha, hd, hfrom, hto⟩ := hist.exists_switch (bit := (·.ier.rxneie)) hoff hon
    obtain rfl := hd.rxneieSet hfrom hto
    exact ha.micro.imp_left fun ⟨hp, hi⟩ => whole_arm hp hi
  · obtain ⟨a, d, d', ha, hd, hfrom, hto⟩ := hist.exists_switch (bit := (·.ier.rxneie)) hon hoff
    obtain rfl | rfl := hd.rxneieCleared hfrom hto
    · exact ha.micro.imp (fun ⟨hp, hi⟩ => whole_cancel hp hi) .inl
    · exact .inr (.inr ha.spelled)

end Sys2Proof.Machine

/-!
O10, O47: the register view of a state (10_state.md R36 to R44), and the values of the reset state (R54).
-/

namespace Sys2Proof.Machine

/-! ### Fields of a register -/

/-- Above the value a register holds, it reads 0. -/
theorem extractLsb'_setWidth_above {n : Nat} (x : BitVec n) (m : Nat) : (x.setWidth 32).extractLsb' n m = 0 := by
  ext i hi
  simp

theorem extractLsb'_setWidth_value {n : Nat} (x : BitVec n) (hn : n ≤ 32) : (x.setWidth 32).extractLsb' 0 n = x := by
  ext i hi
  simp [hi, Nat.lt_of_lt_of_le hi hn]

theorem getLsbD_flag (b : Bool) : (BitVec.ofBool b).getLsbD 0 = b := by cases b <;> rfl

/-- The last flag appended is bit 0. -/
theorem getLsbD_append_flag_zero {n : Nat} (x : BitVec n) (b : Bool) : (x ++ BitVec.ofBool b).getLsbD 0 = b := by
  rw [BitVec.getLsbD_append]
  exact getLsbD_flag b

/-- The flags before it come after it. -/
theorem getLsbD_append_flag_succ {n : Nat} (x : BitVec n) (b : Bool) (k : Nat) :
    (x ++ BitVec.ofBool b).getLsbD (k + 1) = x.getLsbD k := by
  simp [BitVec.getLsbD_append]

theorem bitWord_bit (b : Bool) : (bitWord b).getLsbD 0 = b ∧ (bitWord b).extractLsb' 1 31 = 0 :=
  ⟨by cases b <;> rfl, extractLsb'_setWidth_above (BitVec.ofBool b) 31⟩

/-- `CSR` (10_state.md R37). -/
theorem Channel.csr_bits (c : Channel) :
    c.csr.getLsbD 0 = c.initialized ∧ c.csr.getLsbD 1 = (c.writeState == .draining) ∧
      c.csr.getLsbD 2 = (c.readState == .armed) ∧ c.csr.getLsbD 3 = c.wqAttached ∧ c.csr.getLsbD 4 = c.rqAttached ∧
      c.csr.getLsbD 5 = c.cbEn ∧ c.csr.getLsbD 6 = (c.initialized && c.lp) ∧ c.csr.extractLsb' 7 25 = 0 := by
  refine ⟨?_, ?_, ?_, ?_, ?_, ?_, ?_, extractLsb'_setWidth_above _ 25⟩ <;>
    simp only [Channel.csr, BitVec.getLsbD_setWidth, Nat.reduceLT, decide_true, Bool.true_and, getLsbD_append_flag_zero,
      getLsbD_append_flag_succ, getLsbD_flag]

/-- Three flags in the low bits of a register (10_state.md R38, R39). -/
theorem threeFlags_bits (a b d : Bool) (w : Word)
    (hw : w = (BitVec.ofBool d ++ BitVec.ofBool b ++ BitVec.ofBool a).setWidth 32) :
    w.getLsbD 0 = a ∧ w.getLsbD 1 = b ∧ w.getLsbD 2 = d ∧ w.extractLsb' 3 29 = 0 := by
  subst hw
  refine ⟨?_, ?_, ?_, extractLsb'_setWidth_above _ 29⟩ <;>
    simp only [BitVec.getLsbD_setWidth, Nat.reduceLT, decide_true, Bool.true_and, getLsbD_append_flag_zero,
      getLsbD_append_flag_succ, getLsbD_flag]

theorem dueWord_inf {d : Due} (h : d = .inf) : dueWord d = 0xFFFFFFFF := by rw [h]; rfl

theorem dueWord_ticks {d : Due} {t : Nat} (h : d = .ticks t) : (dueWord d).toNat = t % 2 ^ 32 := by
  rw [h]
  exact BitVec.toNat_ofNat t 32

/-- `READ_TIMEOUT` shows the low 23 bits (10_state.md R42). -/
theorem readTimeout_field (n : Nat) :
    (BitVec.ofNat 32 (n % 2 ^ 23)).extractLsb' 0 23 = BitVec.ofNat 23 n ∧
      (BitVec.ofNat 32 (n % 2 ^ 23)).extractLsb' 23 9 = 0 := by
  have hword : BitVec.ofNat 32 (n % 2 ^ 23) = (BitVec.ofNat 23 n).setWidth 32 := by
    apply BitVec.eq_of_toNat_eq
    simp
  rw [hword]
  exact ⟨extractLsb'_setWidth_value _ (by decide), extractLsb'_setWidth_above _ 9⟩

theorem toNat_ofNat_of_lt {n : Nat} (h : n < 2 ^ 32) : (BitVec.ofNat 32 n).toNat = n := by
  rw [BitVec.toNat_ofNat, Nat.mod_eq_of_lt h]

/-! ### The register numbers (10_state.md R36) -/

theorem State.readRegister_channel {s : State} (hnow : s.shared.now < 0xFFFFFFFF) {ch k : Nat} {c : Channel}
    (hch : ch < 15) (hc : s.chans[ch]? = some c) (hk : k < 0x10) :
    s.readRegister (0x10 * ch + k) = some (c.register k) := by
  have hdiv : (0x10 * ch + k) / 0x10 = ch := by omega
  have hmod : (0x10 * ch + k) % 0x10 = k := by omega
  unfold State.readRegister
  rw [if_neg (by omega), if_neg (by omega), if_neg (by omega), hdiv, hmod, hc]

theorem State.readRegister_global {s : State} (hnow : s.shared.now < 0xFFFFFFFF) {k : Nat} (hk : k < 0x10) :
    s.readRegister (0xF0 + k) = some (s.globalRegister k) := by
  unfold State.readRegister
  rw [if_neg (by omega), if_neg (by omega), if_pos (by omega), Nat.add_sub_cancel_left]

/-- Settles O10: each register's fields are those of the state. -/
theorem registerViewShowsTheState : Obligations.RegisterViewShowsTheState := by
  intro s hnow
  refine ⟨fun ch c hch hc => ⟨c.register, fun k => s.readRegister_channel hnow hch hc, c.csr_bits,
      threeFlags_bits _ _ _ _ rfl, threeFlags_bits _ _ _ _ rfl, ?_, ?_, readTimeout_field _, ?_, ?_,
      toNat_ofNat_of_lt, toNat_ofNat_of_lt, ?_, rfl, rfl, rfl⟩,
    s.globalRegister, fun k => s.readRegister_global hnow, toNat_ofNat_of_lt (by omega), toNat_ofNat_of_lt,
    toNat_ofNat_of_lt, ?_, fun k hlow hhigh => ?_⟩
  · exact ⟨extractLsb'_setWidth_value c.tdr (by decide), extractLsb'_setWidth_above c.tdr 24⟩
  · exact ⟨extractLsb'_setWidth_value c.rdr (by decide), extractLsb'_setWidth_above c.rdr 24⟩
  · obtain ⟨hbit, hrest⟩ := bitWord_bit c.wt.registered
    exact ⟨hbit, hrest, dueWord_inf, fun _ => dueWord_ticks⟩
  · obtain ⟨hbit, hrest⟩ := bitWord_bit c.rt.registered
    exact ⟨hbit, hrest, dueWord_inf, fun _ => dueWord_ticks⟩
  · exact ⟨extractLsb'_setWidth_value c.cbCtx (by decide), extractLsb'_setWidth_above c.cbCtx 16⟩
  · show faultCode s.fault = _
    unfold faultCode
    cases s.fault with
    | none => rfl
    | some r => cases r <;> rfl
  · unfold State.globalRegister
    split
    · omega
    · omega
    · omega
    · omega
    · rfl

/-- Settles O47: the reset state's channels are `Channel.reset` of the parameters, one for each. -/
theorem resetValues : Obligations.ResetValues := by
  intro p
  refine ⟨List.length_map _, fun ch c hc => ?_, rfl, rfl, rfl, rfl, rfl, rfl, rfl, rfl⟩
  rw [State.resetWith, List.getElem?_map] at hc
  obtain ⟨caps, hcaps, rfl⟩ := Option.map_eq_some_iff.1 hc
  exact ⟨rfl, rfl, rfl, rfl, rfl, rfl, rfl, rfl, rfl, rfl, rfl, rfl, rfl, rfl, hcaps⟩

end Sys2Proof.Machine
